-- ==== Sys2Proof/Word.lean ====
section
/-! DEFINITION. The two word types of the machine: 8-bit bytes and 16-bit words (`00_scope.md` R6, R8).
Bit 0 is the least significant bit (R7); arithmetic on both types wraps (R8). -/

namespace Sys2Proof

/-- An 8-bit value: a register, a memory location, an immediate `n` or `e` (R6). -/
abbrev Byte := BitVec 8

/-- A 16-bit value: a register pair, SP, PC, an address, an immediate `nn` (R6). -/
abbrev Word := BitVec 16

end Sys2Proof
end

