-- ==== Sys2Proof/Config.lean ====
section
/-! DEFINITION. What the spec leaves to the platform (`00_scope.md` R6): the parameters it names, as plain data
(`Platform`, held in State and changed by no step), and the free values, which nothing in Lean can evaluate. -/

namespace Sys2Proof

/-- The four flags of F. Bits 3..0 of F are always 0 and are not stored (R25, R26). -/
structure Flags where
  /-- ZF, bit 7 -/
  z : Bool
  /-- NF, bit 6 -/
  n : Bool
  /-- HF, bit 5 -/
  h : Bool
  /-- CF, bit 4 -/
  c : Bool
deriving DecidableEq, Repr

/-- What the environment has been told through the bus and IntAck: an access to an address that is not plain
memory (R52, R59), or the acknowledgement of an interrupt source (R261). -/
inductive BusEvent where
  | read (addr : Word)
  | write (addr : Word) (v : Byte)
  | ack (source : Nat)
deriving DecidableEq, Repr

/-- What the environment answers at one instruction boundary (R33, R260): whether reset is asserted, and what
IntPending() returns (R261). -/
structure Input where
  reset : Bool
  pending : Option Nat
deriving DecidableEq, Repr

/-- An address range, both ends included. -/
structure AddrRange where
  first : Nat
  last : Nat
deriving DecidableEq, Repr

/-- CCF_H (R256, D22): what CCF leaves in HF. -/
inductive CcfH where
  | oldCarry | zero
deriving DecidableEq, Repr

/-- STOP_MODE (R253, D29): STOP waits for a reset, or the model refuses an execution that reaches it. -/
inductive StopMode where
  | untilReset | refuse
deriving DecidableEq, Repr

/-- The RESET_* parameters (R34, D30). -/
structure ResetValues where
  a : Byte
  f : Flags
  b : Byte
  c : Byte
  d : Byte
  e : Byte
  h : Byte
  l : Byte
  sp : Word
  pc : Word
  ime : Bool
deriving DecidableEq, Repr

/-- A platform instance: the parameters of R6. -/
structure Platform where
  /-- the addresses that are not plain memory (Bus, R52, D35) -/
  ranges : List AddrRange
  /-- handler addresses of interrupt sources (IntVector, R261) -/
  vectors : List (Nat × Word)
  /-- HALT_WAKE_IME0 (R268, D28) -/
  haltWakeIme0 : Bool
  stopMode : StopMode
  ccfH : CcfH
  /-- INT_ENTRY_CYCLES (R273, D39) -/
  intEntryCycles : Nat
  resetValues : ResetValues
deriving DecidableEq, Repr

/-- FREE VALUE: the byte that a read of an address which is not plain memory returns, given all that the
environment has been told before (R52: "a read may return a value never written"; U15: any value). Log 3. -/
opaque Config.busByte : List BusEvent → Word → Byte

/-- FREE VALUE: the handler address of an interrupt source the platform instance lists no vector for (R261,
U13). Log 5. -/
opaque Config.intVector : Nat → Word

/-- DESIGN CHOICE (unsafe), log 2: what an address of plain memory that nothing has written reads as. -/
def Config.unlistedByte : Byte := 0#8

/-- DESIGN CHOICE (unsafe), log 1: the RESET_* values of the model's platform instance; the spec gives none
(R34). -/
def ResetValues.zero : ResetValues :=
  { a := 0, f := ⟨false, false, false, false⟩, b := 0, c := 0, d := 0, e := 0, h := 0, l := 0,
    sp := 0, pc := 0, ime := false }

/-- The platform instance the model is reset with: every address plain memory, no vector listed (DESIGN CHOICE,
logs 3 and 5), HALT_WAKE_IME0 true and INT_ENTRY_CYCLES 5 (PRESUMED, GK16 and GK17, logs 6 and 9), STOP_MODE and
CCF_H at the spec's defaults (D29, D22, logs 7 and 8). -/
def Platform.initial : Platform :=
  { ranges := [], vectors := [], haltWakeIme0 := true, stopMode := .untilReset, ccfH := .oldCarry,
    intEntryCycles := 5, resetValues := ResetValues.zero }

end Sys2Proof
end

