-- ==== Sys2Proof/Machine/Bits.lean ====
section
/-! DEFINITION. Bit fields, byte order and sign extension: the primitives of the notation (R7, R8, R84). -/

namespace Sys2Proof.Machine

/-- `hi8(v)`, bits 15..8 (R7). -/
def hi8 (v : Word) : Byte := v.extractLsb' 8 8

/-- `lo8(v)`, bits 7..0 (R7). -/
def lo8 (v : Word) : Byte := v.extractLsb' 0 8

/-- `hi ++ lo`, the more significant byte first (R7, R84). -/
def joinBytes (hi lo : Byte) : Word := hi ++ lo

/-- `sext_16(e)` (R8): the displacement `e` as a 16-bit two's-complement number (R84, D7; log 13). -/
def sext16 (e : Byte) : Word := e.signExtend 16

/-- `FF00h + zext_16(n)`, the address of an I/O load (R51, R84). -/
def ioAddr (n : Byte) : Word := 0xFF00#16 + n.setWidth 16

/-- `1 << b` on 8 bits, the mask of a bit number (R219). -/
def bitMask (k : BitVec 3) : Byte := 1#8 <<< k.toNat

end Sys2Proof.Machine
end

