-- ==== Sys2Proof/Machine/Flags.lean ====
section
/-! DEFINITION. The flag register as a byte (R25, R26) and every flag computation the spec gives: `Add8`, `Sub8`
(R151), INC and DEC (R152, R154), the logical operations (R171 to R179), DAA (R180), the 16-bit additions (R143,
R146), the rotates and shifts (R190), BIT (R220), CPL (R226), SCF and CCF (R255, R256). Sums are exact integers
before they are narrowed. -/

namespace Sys2Proof

/-- F as a byte: `ZF ++ NF ++ HF ++ CF ++ 0000` (R25). -/
def Flags.toByte (f : Flags) : Byte :=
  BitVec.ofBool f.z ++ BitVec.ofBool f.n ++ BitVec.ofBool f.h ++ BitVec.ofBool f.c ++ 0#4

/-- The flags that `F <- v & F0h` leaves (R26, R133). -/
def Flags.ofByte (v : Byte) : Flags :=
  { z := v.getLsbD 7, n := v.getLsbD 6, h := v.getLsbD 5, c := v.getLsbD 4 }

namespace Machine

/-- A result byte with its half-carry and carry (R151). -/
structure Sum8 where
  res : Byte
  h : Bool
  c : Bool
deriving DecidableEq, Repr

/-- `Add8(a, b, cin)` (R151; its carry formulas are D4, log 12). -/
def add8 (a b : Byte) (cin : Bool) : Sum8 :=
  { res := BitVec.ofNat 8 (a.toNat + b.toNat + cin.toNat)
    h := decide (a.toNat % 16 + b.toNat % 16 + cin.toNat > 0x0F)
    c := decide (a.toNat + b.toNat + cin.toNat > 0xFF) }

/-- `Sub8(a, b, cin)` (R151; its borrow formulas are D4, log 12). -/
def sub8 (a b : Byte) (cin : Bool) : Sum8 :=
  { res := BitVec.ofInt 8 ((a.toNat : Int) - b.toNat - cin.toNat)
    h := decide (((a.toNat % 16 : Nat) : Int) - (b.toNat % 16 : Nat) - cin.toNat < 0)
    c := decide ((a.toNat : Int) - b.toNat - cin.toNat < 0) }

/-- The eight two-operand operations on A (R83, R150). -/
inductive AluOp where
  | add | adc | sub | sbc | cp | and | xor | or
deriving DecidableEq, Repr

/-- The flags of a sum or difference: Z from the 8-bit result (R151, D3). -/
def flagsOfSum (r : Sum8) (n : Bool) : Flags :=
  { z := decide (r.res = 0#8), n := n, h := r.h, c := r.c }

/-- The flags of a logical operation (R171, R174, R177). -/
def flagsOfLogic (res : Byte) (h : Bool) : Flags :=
  { z := decide (res = 0#8), n := false, h := h, c := false }

/-- A and the flags after a two-operand operation on A and `x` (R156 to R179). -/
def alu (o : AluOp) (a x : Byte) (f : Flags) : Byte × Flags :=
  match o with
  | .add => ((add8 a x false).res, flagsOfSum (add8 a x false) false)
  | .adc => ((add8 a x f.c).res, flagsOfSum (add8 a x f.c) false)
  | .sub => ((sub8 a x false).res, flagsOfSum (sub8 a x false) true)
  | .sbc => ((sub8 a x f.c).res, flagsOfSum (sub8 a x f.c) true)
  | .cp => (a, flagsOfSum (sub8 a x false) true)
  | .and => (a &&& x, flagsOfLogic (a &&& x) true)
  | .xor => (a ^^^ x, flagsOfLogic (a ^^^ x) false)
  | .or => (a ||| x, flagsOfLogic (a ||| x) false)

/-- INC on a byte: CF unchanged (R152, R153). -/
def inc8 (v : Byte) (f : Flags) : Byte × Flags :=
  (v + 1#8, { f with z := decide (v + 1#8 = 0#8), n := false, h := decide (v.toNat % 16 = 0x0F) })

/-- DEC on a byte: CF unchanged (R154, R155). -/
def dec8 (v : Byte) (f : Flags) : Byte × Flags :=
  (v - 1#8, { f with z := decide (v - 1#8 = 0#8), n := true, h := decide (v.toNat % 16 = 0x00) })

/-- `lo` of DAA: the low digit is corrected (R180). -/
def daaLow (a : Byte) (f : Flags) : Bool := f.h || decide (a.toNat % 16 > 9)

/-- `hi` of DAA: the high digit is corrected (R180). -/
def daaHigh (a : Byte) (f : Flags) : Bool := f.c || decide (a.toNat > 0x99)

/-- DAA, the source's algorithm, total (R180; log 11). Both corrections are judged on A before the instruction. -/
def daaAdjust (a : Byte) (f : Flags) : Byte × Flags :=
  let correction : Byte := (if daaLow a f then 0x06#8 else 0#8) + (if daaHigh a f then 0x60#8 else 0#8)
  let t := if f.n then a - correction else a + correction
  (t, { f with z := decide (t = 0#8), h := false, c := daaHigh a f })

/-- `ADD HL,pp` on two words: ZF unchanged (R143; its carries are D5, log 12). -/
def add16 (a b : Word) (f : Flags) : Word × Flags :=
  (a + b, { f with
    n := false
    h := decide (a.toNat % 4096 + b.toNat % 4096 > 0x0FFF)
    c := decide (a.toNat + b.toNat > 0xFFFF) })

/-- `AddSP(e)` with the flags of its two users (R144, R145, R146; its carries are D6, log 12). -/
def addSp (sp : Word) (e : Byte) : Word × Flags :=
  (sp + sext16 e,
   { z := false
     n := false
     h := decide (sp.toNat % 16 + e.toNat % 16 > 0x0F)
     c := decide (sp.toNat % 256 + e.toNat > 0xFF) })

/-- The eight rotates, shifts and SWAP (R83, R190). -/
inductive RotOp where
  | rlc | rrc | rl | rr | sla | sra | swap | srl
deriving DecidableEq, Repr

/-- A byte moved by a rotate, a shift or SWAP, and the carry out (R190); `cf` is the carry before. -/
def rotate (o : RotOp) (v : Byte) (cf : Bool) : Byte × Bool :=
  match o with
  | .rlc => (v.extractLsb' 0 7 ++ v.extractLsb' 7 1, v.getLsbD 7)
  | .rrc => (v.extractLsb' 0 1 ++ v.extractLsb' 1 7, v.getLsbD 0)
  | .rl => (v.extractLsb' 0 7 ++ BitVec.ofBool cf, v.getLsbD 7)
  | .rr => (BitVec.ofBool cf ++ v.extractLsb' 1 7, v.getLsbD 0)
  | .sla => (v.extractLsb' 0 7 ++ 0#1, v.getLsbD 7)
  | .sra => (v.extractLsb' 7 1 ++ v.extractLsb' 1 7, v.getLsbD 0)
  | .swap => (v.extractLsb' 0 4 ++ v.extractLsb' 4 4, false)
  | .srl => (0#1 ++ v.extractLsb' 1 7, v.getLsbD 0)

/-- The CB-prefixed forms: Z computed, N and H cleared, C the carry out (R195 to R210). -/
def rot8 (o : RotOp) (v : Byte) (f : Flags) : Byte × Flags :=
  ((rotate o v f.c).1, { z := decide ((rotate o v f.c).1 = 0#8), n := false, h := false, c := (rotate o v f.c).2 })

/-- The fast rotates of A: Z, N and H cleared, C the carry out (R191 to R194). -/
def rotFast (o : RotOp) (v : Byte) (f : Flags) : Byte × Flags :=
  ((rotate o v f.c).1, { z := false, n := false, h := false, c := (rotate o v f.c).2 })

/-- The flags after BIT: Z the complement of the tested bit, CF unchanged (R220, R221). -/
def bitFlags (k : BitVec 3) (v : Byte) (f : Flags) : Flags :=
  { f with z := !(v.getLsbD k.toNat), n := false, h := true }

/-- RES on a byte; no flag changes (R222, R223). -/
def res8 (k : BitVec 3) (v : Byte) (f : Flags) : Byte × Flags := (v &&& ~~~(bitMask k), f)

/-- SET on a byte; no flag changes (R224, R225). -/
def set8 (k : BitVec 3) (v : Byte) (f : Flags) : Byte × Flags := (v ||| bitMask k, f)

/-- CPL on A: ZF and CF unchanged (R226). -/
def cpl8 (v : Byte) (f : Flags) : Byte × Flags := (~~~v, { f with n := true, h := true })

/-- The flags after SCF: ZF unchanged (R255). -/
def scfFlags (f : Flags) : Flags := { f with n := false, h := false, c := true }

/-- The flags after CCF: ZF unchanged, HF as the parameter CCF_H says (R256, D22; log 8). -/
def ccfFlags (m : CcfH) (f : Flags) : Flags :=
  { f with
    n := false
    h := match m with
      | .oldCarry => f.c
      | .zero => false
    c := !f.c }

end Machine

end Sys2Proof
end

