-- ==== Sys2Proof/Machine/State.lean ====
section
/-! DEFINITION. The state of the machine as plain data (`10_state.md` section 1), the reasons a step can stop, and
the state right after reset. -/

namespace Sys2Proof.Machine

/-- The run state (R30). -/
inductive RunState where
  | running | halted | stopped | locked
deriving DecidableEq, Repr

/-- Plain memory (R31): (address, byte) pairs in the canonical form `Memory.wf`. -/
structure Memory where
  cells : List Host.Cell
deriving DecidableEq, Repr

/-- The machine. `a` to `run` are the spec's CPU state (R20 to R30), `mem` its memory (R31); `bus`, `inputs`,
`cycles` and `platform` are the model's own: what the spec's step reads from and tells to its environment (R6,
R33, R52, R261, R306). -/
structure State where
  a : Byte
  f : Flags
  b : Byte
  c : Byte
  d : Byte
  e : Byte
  h : Byte
  l : Byte
  sp : Word
  pc : Word
  ime : Bool
  run : RunState
  mem : Memory
  /-- what the environment has been told, latest first (log 3) -/
  bus : List BusEvent
  /-- the environment's answers at the coming instruction boundaries, the next one first (log 4) -/
  inputs : List Input
  /-- CPU cycles of the completed instructions and interrupt entries (R306; log 20) -/
  cycles : Nat
  /-- the platform instance, changed by no step (R6) -/
  platform : Platform
deriving DecidableEq, Repr

/-- Why the machine stops with a fault. There is no reason: "The CPU raises no synchronous exception. No
instruction can fault" (R265), so the type has no constructor and no step can answer a fault. -/
inductive Fault where
deriving DecidableEq, Repr

/-- Why the model gives no next state. -/
inductive Refusal where
  /-- Raised by no arm of this model: an instruction with no meaning yet. Safe. -/
  | notModelled (mnemonic : String)
  /-- Raised by STOP where the platform parameter STOP_MODE is `refuse`: "the model rejects any execution that
  reaches a STOP" (R253, D29). Safe. -/
  | stopRefused
deriving DecidableEq, Repr

/-- The CPU state that the RESET_* values of a platform give (R34, R300), with memory nothing has written, no
environment input and no bus history. -/
def State.afterReset (p : Platform) : State :=
  { a := p.resetValues.a, f := p.resetValues.f, b := p.resetValues.b, c := p.resetValues.c,
    d := p.resetValues.d, e := p.resetValues.e, h := p.resetValues.h, l := p.resetValues.l,
    sp := p.resetValues.sp, pc := p.resetValues.pc, ime := p.resetValues.ime, run := .running,
    mem := ⟨[]⟩, bus := [], inputs := [], cycles := 0, platform := p }

/-- The machine right after reset (R34, R300). The spec states the run state only; every other value is the
model's (DESIGN CHOICE and PRESUMED, logs 1 to 9). -/
def State.reset : State := State.afterReset Platform.initial

end Sys2Proof.Machine
end

