-- ==== Sys2Proof/Syntax.lean ====
section
/-! DEFINITION. The instructions: one constructor for each row of spec/opcode_table.json, in its order
(103 forms, the CB prefix row, the eleven unused opcodes; `30_encoding.md` R98). -/

namespace Sys2Proof

/-- An 8-bit general register as the fields `r` and `s` name it; code 110 names none of them (R22). -/
inductive Reg8 where
  | b | c | d | e | h | l | a
deriving DecidableEq, Repr

/-- The pair field `pp` (R23). -/
inductive PairP where
  | bc | de | hl | sp
deriving DecidableEq, Repr

/-- The pair field `qq` of PUSH and POP (R24). -/
inductive PairQ where
  | bc | de | hl | af
deriving DecidableEq, Repr

/-- The condition field `cc` (R37). -/
inductive Cond where
  | nz | z | nc | c
deriving DecidableEq, Repr

/-- The instruction forms. Operands: `r`, `s` registers, `n` an unsigned byte, `nn` a 16-bit immediate,
`e` a displacement byte, `k` a bit number, `t` the target address of RST, `x` the ignored byte of STOP
(R82, R84, R92). -/
inductive Instr where
  -- Load group (`40_load.md`)
  | ldRR (r s : Reg8)
  | ldHLR (s : Reg8)
  | ldRHL (r : Reg8)
  | ldRN (r : Reg8) (n : Byte)
  | ldHLN (n : Byte)
  | ldBCA
  | ldABC
  | ldDEA
  | ldADE
  | ldHLIA
  | ldAHLI
  | ldHLDA
  | ldAHLD
  | ldNNA (nn : Word)
  | ldANN (nn : Word)
  | ldNA (n : Byte)
  | ldAN (n : Byte)
  | ldCA
  | ldAC
  | ldPpNN (p : PairP) (nn : Word)
  | ldNNSP (nn : Word)
  | ldSPHL
  | popQq (q : PairQ)
  | pushQq (q : PairQ)
  -- 16-bit Arithmetic group (`41_arith16.md`)
  | incPp (p : PairP)
  | decPp (p : PairP)
  | addHLPp (p : PairP)
  | addSPE (e : Byte)
  | ldhlSPE (e : Byte)
  -- 8-bit ALU group (`42_alu8.md`)
  | incR (r : Reg8)
  | incHL
  | decR (r : Reg8)
  | decHL
  | addAR (s : Reg8)
  | addAHL
  | addAN (n : Byte)
  | adcAR (s : Reg8)
  | adcAHL
  | adcAN (n : Byte)
  | subR (s : Reg8)
  | subHL
  | subN (n : Byte)
  | sbcAR (s : Reg8)
  | sbcAHL
  | sbcAN (n : Byte)
  | cpR (s : Reg8)
  | cpHL
  | cpN (n : Byte)
  | andR (s : Reg8)
  | andHL
  | andN (n : Byte)
  | xorR (s : Reg8)
  | xorHL
  | xorN (n : Byte)
  | orR (s : Reg8)
  | orHL
  | orN (n : Byte)
  | daa
  -- ROT group (`43_rot.md`)
  | rlca
  | rrca
  | rla
  | rra
  | rlR (s : Reg8)
  | rlHL
  | rlcR (s : Reg8)
  | rlcHL
  | rrR (s : Reg8)
  | rrHL
  | rrcR (s : Reg8)
  | rrcHL
  | slaR (s : Reg8)
  | slaHL
  | sraR (s : Reg8)
  | sraHL
  | srlR (s : Reg8)
  | srlHL
  | swapR (s : Reg8)
  | swapHL
  -- Bitwise group (`44_bitwise.md`)
  | bitR (k : BitVec 3) (s : Reg8)
  | bitHL (k : BitVec 3)
  | resR (k : BitVec 3) (s : Reg8)
  | resHL (k : BitVec 3)
  | setR (k : BitVec 3) (s : Reg8)
  | setHL (k : BitVec 3)
  | cpl
  -- Control flow group (`45_control_flow.md`)
  | rst (t : Word)
  | callNN (nn : Word)
  | callCcNN (cc : Cond) (nn : Word)
  | jpNN (nn : Word)
  | jpHL
  | jpCcNN (cc : Cond) (nn : Word)
  | jrE (e : Byte)
  | jrCcE (cc : Cond) (e : Byte)
  | ret
  | retCc (cc : Cond)
  | reti
  -- CPU control group (`46_cpu_control.md`)
  | di
  | ei
  | halt
  | stop (x : Byte)
  | nop
  | scf
  | ccf
  -- The prefix byte CBh, its second byte not yet read (R85)
  | cbPrefix
  -- The unused opcodes (R86)
  | unusedD3
  | unusedDB
  | unusedDD
  | unusedE3
  | unusedE4
  | unusedEB
  | unusedEC
  | unusedED
  | unusedF4
  | unusedFC
  | unusedFD
deriving DecidableEq, Repr

end Sys2Proof
end

