-- ==== Sys2Proof/Machine/Ops.lean ====
section
/-! DEFINITION. The named operations over memory, the bus, the registers and the stack; interrupt entry and the
return from it; the reset event; what happens at an instruction boundary. -/

namespace Sys2Proof.Machine

/-! ## Plain memory (R31, R50, R52) -/

/-- The byte listed at an address, or the one an unlisted address reads as (log 2). -/
def cellsRead : List Host.Cell → Nat → Byte
  | [], _ => Config.unlistedByte
  | (k, v) :: rest, a => if k = a then v else cellsRead rest a

/-- A byte put at an address, keeping the canonical form: a byte equal to what an unlisted address reads as is not
listed. -/
def cellsWrite : List Host.Cell → Nat → Byte → List Host.Cell
  | [], a, v => if v = Config.unlistedByte then [] else [(a, v)]
  | (k, w) :: rest, a, v =>
    if a < k then (if v = Config.unlistedByte then (k, w) :: rest else (a, v) :: (k, w) :: rest)
    else if a = k then (if v = Config.unlistedByte then rest else (a, v) :: rest)
    else (k, w) :: cellsWrite rest a v

/-- Addresses strictly rising from `lo` on, all below 65536, and no byte equal to what an unlisted address reads
as. -/
def cellsWf : Nat → List Host.Cell → Bool
  | _, [] => true
  | lo, (k, v) :: rest => decide (lo ≤ k) && decide (k < 65536) && decide (v ≠ Config.unlistedByte) && cellsWf (k + 1) rest

/-- The byte of plain memory at an address (R52). -/
def Memory.read (m : Memory) (a : Word) : Byte := cellsRead m.cells a.toNat

/-- A byte of plain memory written (R52). -/
def Memory.write (m : Memory) (a : Word) (v : Byte) : Memory := ⟨cellsWrite m.cells a.toNat v⟩

/-- The canonical form of memory. -/
def Memory.wf (m : Memory) : Bool := cellsWf 0 m.cells

/-! ## The bus (R52, R57, R59) -/

/-- Whether an address is not plain memory on this platform (R52, D35). -/
def platformOwns (p : Platform) (a : Word) : Bool :=
  p.ranges.any fun r => decide (r.first ≤ a.toNat) && decide (a.toNat ≤ r.last)

/-- The byte the bus gives for an address: plain memory's, or a free value (R52; log 3). -/
def State.busByte (s : State) (a : Word) : Byte :=
  if platformOwns s.platform a then Config.busByte s.bus a else s.mem.read a

/-- The bus history after a read: a read of plain memory leaves no trace (R59). -/
def State.busAfterRead (s : State) (a : Word) : List BusEvent :=
  if platformOwns s.platform a then .read a :: s.bus else s.bus

/-- `MemRead(addr, 1)` (R52): the byte and the state after the read. -/
def State.memRead (s : State) (a : Word) : Byte × State :=
  (s.busByte a, { s with bus := s.busAfterRead a })

/-- `MemWrite(addr, 1, v)` (R52): a write to an address that is not plain memory changes no plain memory (U15). -/
def State.memWrite (s : State) (a : Word) (v : Byte) : State :=
  { s with
    mem := if platformOwns s.platform a then s.mem else s.mem.write a v
    bus := if platformOwns s.platform a then .write a v :: s.bus else s.bus }

/-- `MemWrite(addr, 2, v)`: the low byte, then the high byte at the next address (R57). -/
def State.memWrite2 (s : State) (a : Word) (v : Word) : State :=
  (s.memWrite a (lo8 v)).memWrite (a + 1) (hi8 v)

/-! ## Registers (R20 to R24) -/

/-- `R8[r]` (R22). -/
def State.reg (s : State) : Reg8 → Byte
  | .b => s.b
  | .c => s.c
  | .d => s.d
  | .e => s.e
  | .h => s.h
  | .l => s.l
  | .a => s.a

/-- `R8[r] <- v` (R22). -/
def State.setReg (s : State) (r : Reg8) (v : Byte) : State :=
  match r with
  | .b => { s with b := v }
  | .c => { s with c := v }
  | .d => { s with d := v }
  | .e => { s with e := v }
  | .h => { s with h := v }
  | .l => { s with l := v }
  | .a => { s with a := v }

/-- `BC = B ++ C` (R21). -/
def State.bc (s : State) : Word := joinBytes s.b s.c

/-- `DE = D ++ E` (R21). -/
def State.de (s : State) : Word := joinBytes s.d s.e

/-- `HL = H ++ L` (R21). -/
def State.hl (s : State) : Word := joinBytes s.h s.l

/-- `AF = A ++ F` (R21). -/
def State.af (s : State) : Word := joinBytes s.a s.f.toByte

/-- `BC <- v` (R21). -/
def State.setBC (s : State) (v : Word) : State := { s with b := hi8 v, c := lo8 v }

/-- `DE <- v` (R21). -/
def State.setDE (s : State) (v : Word) : State := { s with d := hi8 v, e := lo8 v }

/-- `HL <- v` (R21). -/
def State.setHL (s : State) (v : Word) : State := { s with h := hi8 v, l := lo8 v }

/-- `AF <- v`: bits 3..0 of F stay 0 (R21, R26). -/
def State.setAF (s : State) (v : Word) : State := { s with a := hi8 v, f := Flags.ofByte (lo8 v) }

/-- `PP[pp]` (R23). -/
def State.pairP (s : State) : PairP → Word
  | .bc => s.bc
  | .de => s.de
  | .hl => s.hl
  | .sp => s.sp

/-- `PP[pp] <- v` (R23). -/
def State.setPairP (s : State) (p : PairP) (v : Word) : State :=
  match p with
  | .bc => s.setBC v
  | .de => s.setDE v
  | .hl => s.setHL v
  | .sp => { s with sp := v }

/-- `QQ[qq]` (R24). -/
def State.pairQ (s : State) : PairQ → Word
  | .bc => s.bc
  | .de => s.de
  | .hl => s.hl
  | .af => s.af

/-- `QQ[qq] <- v` (R24, R133). -/
def State.setPairQ (s : State) (q : PairQ) (v : Word) : State :=
  match q with
  | .bc => s.setBC v
  | .de => s.setDE v
  | .hl => s.setHL v
  | .af => s.setAF v

/-- `cond(cc)` (R37; log 13). -/
def State.cond (s : State) : Cond → Bool
  | .nz => !s.f.z
  | .z => s.f.z
  | .nc => !s.f.c
  | .c => s.f.c

/-! ## Fetch and time -/

/-- PC past an instruction of `len` bytes (R28, R95) and the instruction's cycle count (R308; logs 15 and 20). -/
def State.advance (s : State) (len cyc : Nat) : State :=
  { s with pc := s.pc + BitVec.ofNat 16 len, cycles := s.cycles + cyc }

/-- The cycles a taken conditional transfer takes beyond the count for the condition false (R13, R308). -/
def State.spend (s : State) (cyc : Nat) : State :=
  { s with cycles := s.cycles + cyc }

/-- `pc <- target` (R9). -/
def State.jump (s : State) (target : Word) : State := { s with pc := target }

/-! ## The stack (R27, R58) -/

/-- `Push16(v)` (R58): the high byte at SP - 1, then the low byte at SP - 2; SP lowered by 2. -/
def State.push16 (s : State) (v : Word) : State :=
  let s₁ := ({ s with sp := s.sp - 1 } : State)
  let s₂ := s₁.memWrite s₁.sp (hi8 v)
  let s₃ := ({ s₂ with sp := s₂.sp - 1 } : State)
  s₃.memWrite s₃.sp (lo8 v)

/-- `Pop16()` (R58): the low byte from SP, then the high byte from SP + 1; SP raised by 2. -/
def State.pop16 (s : State) : Word × State :=
  let (lo, s₁) := s.memRead s.sp
  let s₂ := ({ s₁ with sp := s₁.sp + 1 } : State)
  let (hi, s₃) := s₂.memRead s₂.sp
  (joinBytes hi lo, { s₃ with sp := s₃.sp + 1 })

/-! ## Interrupts and reset (R261 to R264, R300) -/

/-- `IntVector(i)` (R261): the platform's listed address, else a free value (log 5). -/
def intVector (p : Platform) (i : Nat) : Word :=
  match p.vectors.find? (fun v => v.1 == i) with
  | some v => v.2
  | none => Config.intVector i

/-- Interrupt entry for source `i` (R263): `ime <- 0; IntAck(i); Push16(PC); PC <- IntVector(i); run <- Running`. -/
def State.interruptEntry (s : State) (i : Nat) : State :=
  let s₁ := ({ s with ime := false, bus := .ack i :: s.bus } : State)
  let s₂ := s₁.push16 s₁.pc
  { s₂ with
    pc := intVector s.platform i
    run := .running
    cycles := s₂.cycles + s.platform.intEntryCycles }

/-- The return from an interrupt handler (R241): `pc <- Pop16(); ime <- 1`. -/
def State.interruptReturn (s : State) : State :=
  let (v, s₁) := s.pop16
  { s₁ with pc := v, ime := true }

/-- The reset event (R300): registers, flags, ime, SP and PC take the RESET_* values, the CPU runs; memory and the
environment are not changed (D30; log 25). -/
def State.resetEvent (s : State) : State :=
  { State.afterReset s.platform with
    mem := s.mem, bus := s.bus, inputs := s.inputs, cycles := s.cycles }

/-! ## Not executing (R252, R253, R270) -/

/-- The lock-up of an unused opcode (R270): the opcode byte has been fetched, nothing else changes. The spec gives
no cycle count (R308; log 16). -/
def State.lockUp (s : State) : State := { s.advance 1 0 with run := .locked }

/-! ## The instruction boundary (R260) -/

/-- The environment's answer at this boundary: the head of `inputs`, or no reset and nothing pending (R33; log 4). -/
def State.boundaryInput (s : State) : Input :=
  match s.inputs with
  | [] => { reset := false, pending := none }
  | i :: _ => i

/-- The state once this boundary's answer has been used. -/
def State.boundaryPassed (s : State) : State := { s with inputs := s.inputs.tail }

/-- What a step does at an instruction boundary: it ends with a state, or an instruction is to be executed in
one (R260). -/
inductive Boundary where
  | ends (s : State)
  | executes (s : State)
deriving DecidableEq, Repr

/-- Points (5) and (6) of R260 for a running CPU: an acceptable interrupt is taken, else an instruction is executed
(R262). -/
def State.acceptOrExecute (s : State) (pending : Option Nat) : Boundary :=
  match pending with
  | some i => if s.ime then .ends (s.interruptEntry i) else .executes s
  | none => .executes s

/-- The wake-up test of a halted CPU (R268; log 6). -/
def State.wakeTest (s : State) (pending : Option Nat) : Boundary :=
  match pending with
  | none => .ends s
  | some i =>
    if s.ime || s.platform.haltWakeIme0 then ({ s with run := .running } : State).acceptOrExecute (some i)
    else .ends s

/-- Points (1) to (5) of R260, in their order (R267). -/
def State.boundary (s : State) : Boundary :=
  let i := s.boundaryInput
  let s := s.boundaryPassed
  if i.reset then .ends s.resetEvent
  else
    match s.run with
    | .locked => .ends s
    | .stopped => .ends s
    | .halted => s.wakeTest i.pending
    | .running => s.acceptOrExecute i.pending

end Sys2Proof.Machine
end

