-- ==== Sys2Proof/Machine/Operands.lean ====
section
/-! DEFINITION. The operand forms (R53, R150, R190) and the operations the meanings share over them. -/

namespace Sys2Proof.Machine

/-- Where the second operand of a two-operand ALU operation comes from (R150). -/
inductive Source8 where
  | reg (s : Reg8)
  | hl
  | imm (n : Byte)
deriving DecidableEq, Repr

/-- An operand that is read and written in place: a register, or the byte at (HL) (R53, R190, R219). -/
inductive Place8 where
  | reg (r : Reg8)
  | hl
deriving DecidableEq, Repr

/-- The operand byte `x` and the state after it is read (R150). -/
def State.source (s : State) : Source8 → Byte × State
  | .reg r => (s.reg r, s)
  | .hl => s.memRead s.hl
  | .imm n => (n, s)

/-- The byte at a place and the state after it is read. -/
def State.readPlace (s : State) : Place8 → Byte × State
  | .reg r => (s.reg r, s)
  | .hl => s.memRead s.hl

/-- A byte put at a place. -/
def State.writePlace (s : State) (x : Place8) (v : Byte) : State :=
  match x with
  | .reg r => s.setReg r v
  | .hl => s.memWrite s.hl v

/-- A two-operand operation on A (R156 to R179). -/
def State.aluA (s : State) (o : AluOp) (x : Source8) : State :=
  let (v, s₁) := s.source x
  { s₁ with a := (alu o s₁.a v s₁.f).1, f := (alu o s₁.a v s₁.f).2 }

/-- A one-operand operation in place: one read, then one write of the same place (R59), and the flags. -/
def State.modify (s : State) (x : Place8) (g : Byte → Flags → Byte × Flags) : State :=
  let (v, s₁) := s.readPlace x
  { s₁.writePlace x (g v s₁.f).1 with f := (g v s₁.f).2 }

/-- An operation on A alone: the fast rotates, DAA, CPL. -/
def State.modifyA (s : State) (g : Byte → Flags → Byte × Flags) : State :=
  { s with a := (g s.a s.f).1, f := (g s.a s.f).2 }

/-- BIT: one read, no write of the operand (R59, R220, R221). -/
def State.testBit (s : State) (k : BitVec 3) (x : Place8) : State :=
  let (v, s₁) := s.readPlace x
  { s₁ with f := bitFlags k v s₁.f }

/-- A register loaded from memory (R113, R117, R119, R121, R123, R125, R127, R129). -/
def State.loadReg (s : State) (r : Reg8) (a : Word) : State :=
  let (v, s₁) := s.memRead a
  s₁.setReg r v

/-- CALL: the address after the instruction pushed, then the jump (R231, R232; log 14). -/
def State.call (s : State) (target : Word) : State := (s.push16 s.pc).jump target

/-- RET: the jump to the popped address (R239). -/
def State.ret (s : State) : State :=
  let (v, s₁) := s.pop16
  s₁.jump v

end Sys2Proof.Machine
end

