-- ==== Sys2Proof/Machine/Alu8.lean ====
section
/-! DEFINITION. The 8-bit ALU group (`42_alu8.md`, R150 to R181). A meaning starts with PC at the instruction's first byte, moves
PC past the instruction and counts its cycles (`State.advance`; R28, R95, R308; log 20), then does what the rule's
Operation says. -/

namespace Sys2Proof.Machine

/-- `INC r` (R152). -/
def execIncR (r : Reg8) (s : State) : Host.Outcome State Fault Refusal :=
  .next ((s.advance 1 1).modify (.reg r) inc8)

/-- `INC (HL)` (R153). -/
def execIncHL (s : State) : Host.Outcome State Fault Refusal :=
  .next ((s.advance 1 3).modify .hl inc8)

/-- `DEC r` (R154). -/
def execDecR (r : Reg8) (s : State) : Host.Outcome State Fault Refusal :=
  .next ((s.advance 1 1).modify (.reg r) dec8)

/-- `DEC (HL)` (R155). -/
def execDecHL (s : State) : Host.Outcome State Fault Refusal :=
  .next ((s.advance 1 3).modify .hl dec8)

/-- `ADD A,r` (R156). -/
def execAddAR (q : Reg8) (s : State) : Host.Outcome State Fault Refusal :=
  .next ((s.advance 1 1).aluA .add (.reg q))

/-- `ADD A,(HL)` (R157). -/
def execAddAHL (s : State) : Host.Outcome State Fault Refusal :=
  .next ((s.advance 1 2).aluA .add .hl)

/-- `ADD A,n` (R158). -/
def execAddAN (n : Byte) (s : State) : Host.Outcome State Fault Refusal :=
  .next ((s.advance 2 2).aluA .add (.imm n))

/-- `ADC A,r` (R159). -/
def execAdcAR (q : Reg8) (s : State) : Host.Outcome State Fault Refusal :=
  .next ((s.advance 1 1).aluA .adc (.reg q))

/-- `ADC A,(HL)` (R160). -/
def execAdcAHL (s : State) : Host.Outcome State Fault Refusal :=
  .next ((s.advance 1 2).aluA .adc .hl)

/-- `ADC A,n` (R161). -/
def execAdcAN (n : Byte) (s : State) : Host.Outcome State Fault Refusal :=
  .next ((s.advance 2 2).aluA .adc (.imm n))

/-- `SUB r` (R162). -/
def execSubR (q : Reg8) (s : State) : Host.Outcome State Fault Refusal :=
  .next ((s.advance 1 1).aluA .sub (.reg q))

/-- `SUB (HL)` (R163). -/
def execSubHL (s : State) : Host.Outcome State Fault Refusal :=
  .next ((s.advance 1 2).aluA .sub .hl)

/-- `SUB n` (R164). -/
def execSubN (n : Byte) (s : State) : Host.Outcome State Fault Refusal :=
  .next ((s.advance 2 2).aluA .sub (.imm n))

/-- `SBC A,r` (R165). -/
def execSbcAR (q : Reg8) (s : State) : Host.Outcome State Fault Refusal :=
  .next ((s.advance 1 1).aluA .sbc (.reg q))

/-- `SBC A,(HL)` (R166). -/
def execSbcAHL (s : State) : Host.Outcome State Fault Refusal :=
  .next ((s.advance 1 2).aluA .sbc .hl)

/-- `SBC A,n` (R167). -/
def execSbcAN (n : Byte) (s : State) : Host.Outcome State Fault Refusal :=
  .next ((s.advance 2 2).aluA .sbc (.imm n))

/-- `CP r` (R168). -/
def execCpR (q : Reg8) (s : State) : Host.Outcome State Fault Refusal :=
  .next ((s.advance 1 1).aluA .cp (.reg q))

/-- `CP (HL)` (R169). -/
def execCpHL (s : State) : Host.Outcome State Fault Refusal :=
  .next ((s.advance 1 2).aluA .cp .hl)

/-- `CP n` (R170). -/
def execCpN (n : Byte) (s : State) : Host.Outcome State Fault Refusal :=
  .next ((s.advance 2 2).aluA .cp (.imm n))

/-- `AND r` (R171). -/
def execAndR (q : Reg8) (s : State) : Host.Outcome State Fault Refusal :=
  .next ((s.advance 1 1).aluA .and (.reg q))

/-- `AND (HL)` (R172). -/
def execAndHL (s : State) : Host.Outcome State Fault Refusal :=
  .next ((s.advance 1 2).aluA .and .hl)

/-- `AND n` (R173). -/
def execAndN (n : Byte) (s : State) : Host.Outcome State Fault Refusal :=
  .next ((s.advance 2 2).aluA .and (.imm n))

/-- `XOR r` (R174). -/
def execXorR (q : Reg8) (s : State) : Host.Outcome State Fault Refusal :=
  .next ((s.advance 1 1).aluA .xor (.reg q))

/-- `XOR (HL)` (R175). -/
def execXorHL (s : State) : Host.Outcome State Fault Refusal :=
  .next ((s.advance 1 2).aluA .xor .hl)

/-- `XOR n` (R176). -/
def execXorN (n : Byte) (s : State) : Host.Outcome State Fault Refusal :=
  .next ((s.advance 2 2).aluA .xor (.imm n))

/-- `OR r` (R177). -/
def execOrR (q : Reg8) (s : State) : Host.Outcome State Fault Refusal :=
  .next ((s.advance 1 1).aluA .or (.reg q))

/-- `OR (HL)` (R178). -/
def execOrHL (s : State) : Host.Outcome State Fault Refusal :=
  .next ((s.advance 1 2).aluA .or .hl)

/-- `OR n` (R179). -/
def execOrN (n : Byte) (s : State) : Host.Outcome State Fault Refusal :=
  .next ((s.advance 2 2).aluA .or (.imm n))

/-- `DAA` (R180; log 11). -/
def execDaa (s : State) : Host.Outcome State Fault Refusal :=
  .next ((s.advance 1 1).modifyA daaAdjust)

end Sys2Proof.Machine
end

