-- ==== Sys2Proof/Machine/Arith16.lean ====
section
/-! DEFINITION. The 16-bit Arithmetic group (`41_arith16.md`, R140 to R146). A meaning starts with PC at the instruction's first byte, moves
PC past the instruction and counts its cycles (`State.advance`; R28, R95, R308; log 20), then does what the rule's
Operation says. -/

namespace Sys2Proof.Machine

/-- `INC pp` (R141): no flag changes. -/
def execIncPp (p : PairP) (s : State) : Host.Outcome State Fault Refusal :=
  .next ((s.advance 1 2).setPairP p (s.pairP p + 1))

/-- `DEC pp` (R142): no flag changes. -/
def execDecPp (p : PairP) (s : State) : Host.Outcome State Fault Refusal :=
  .next ((s.advance 1 2).setPairP p (s.pairP p - 1))

/-- `ADD HL,pp` (R143). -/
def execAddHLPp (p : PairP) (s : State) : Host.Outcome State Fault Refusal :=
  .next { (s.advance 1 2).setHL (add16 s.hl (s.pairP p) s.f).1 with f := (add16 s.hl (s.pairP p) s.f).2 }

/-- `ADD SP,e` (R144). -/
def execAddSPE (e : Byte) (s : State) : Host.Outcome State Fault Refusal :=
  .next { s.advance 2 4 with sp := (addSp s.sp e).1, f := (addSp s.sp e).2 }

/-- `LDHL SP,e` (R145): SP is not changed. -/
def execLdhlSPE (e : Byte) (s : State) : Host.Outcome State Fault Refusal :=
  .next { (s.advance 2 3).setHL (addSp s.sp e).1 with f := (addSp s.sp e).2 }

end Sys2Proof.Machine
end

