-- ==== Sys2Proof/Machine/Bitwise.lean ====
section
/-! DEFINITION. The Bitwise group (`44_bitwise.md`, R219 to R226). A meaning starts with PC at the instruction's first byte, moves
PC past the instruction and counts its cycles (`State.advance`; R28, R95, R308; log 20), then does what the rule's
Operation says. -/

namespace Sys2Proof.Machine

/-- `BIT b,r` (R220). -/
def execBitR (k : BitVec 3) (q : Reg8) (s : State) : Host.Outcome State Fault Refusal :=
  .next ((s.advance 2 2).testBit k (.reg q))

/-- `BIT b,(HL)` (R221): memory is read once and not written. -/
def execBitHL (k : BitVec 3) (s : State) : Host.Outcome State Fault Refusal :=
  .next ((s.advance 2 3).testBit k .hl)

/-- `RES b,r` (R222). -/
def execResR (k : BitVec 3) (q : Reg8) (s : State) : Host.Outcome State Fault Refusal :=
  .next ((s.advance 2 2).modify (.reg q) (res8 k))

/-- `RES b,(HL)` (R223). -/
def execResHL (k : BitVec 3) (s : State) : Host.Outcome State Fault Refusal :=
  .next ((s.advance 2 4).modify .hl (res8 k))

/-- `SET b,r` (R224). -/
def execSetR (k : BitVec 3) (q : Reg8) (s : State) : Host.Outcome State Fault Refusal :=
  .next ((s.advance 2 2).modify (.reg q) (set8 k))

/-- `SET b,(HL)` (R225). -/
def execSetHL (k : BitVec 3) (s : State) : Host.Outcome State Fault Refusal :=
  .next ((s.advance 2 4).modify .hl (set8 k))

/-- `CPL` (R226). -/
def execCpl (s : State) : Host.Outcome State Fault Refusal :=
  .next ((s.advance 1 1).modifyA cpl8)

end Sys2Proof.Machine
end

