-- ==== Sys2Proof/WellFormed.lean ====
section
/-! DEFINITION. Which instruction terms stand for an encoding. The operand types of `Instr` already exclude
register code 110, a bit number above 7 and an immediate too wide; the one check left is the target of RST,
which is one of the eight addresses `ttt * 8` (R231). -/

namespace Sys2Proof

/-- The eight RST targets: 0000h, 0008h, ..., 0038h (R231). -/
def rstTarget (t : Word) : Bool :=
  t &&& 0xFFC7#16 == 0#16

/-- An instruction term that some encoding of the opcode map stands for. -/
def Instr.wellFormed : Instr → Bool
  | .rst t => rstTarget t
  | _ => true

end Sys2Proof
end

