-- ==== Sys2Proof/Decode.lean ====
section
/-! DEFINITION. The decoder (`30_encoding.md` R80 to R95), total on any bytes, and the encoder, each written from
the opcode maps R88 and R89 and the patterns of the instruction rules. -/

namespace Sys2Proof

open Sys2Proof.Machine (lo8 hi8 joinBytes)

/-! ## Fields -/

/-- Bits 7..6 of an opcode byte, `x` of R83. -/
def fieldX (op : Byte) : BitVec 2 := op.extractLsb' 6 2

/-- Bits 5..3 of an opcode byte, `y` of R83: the fields `r`, `ttt` and `bbb` of R82. -/
def fieldY (op : Byte) : BitVec 3 := op.extractLsb' 3 3

/-- Bits 2..0 of an opcode byte, `z` of R83: the field `s` of R82. -/
def fieldZ (op : Byte) : BitVec 3 := op.extractLsb' 0 3

/-- Bits 5..4 of an opcode byte, `p` of R83: the fields `pp` and `qq` of R82. -/
def fieldP (op : Byte) : BitVec 2 := op.extractLsb' 4 2

/-- Bits 4..3 of an opcode byte: the field `cc` of R82. -/
def fieldCC (op : Byte) : BitVec 2 := op.extractLsb' 3 2

/-- The operand that a register field names: one of the seven registers, or none for code 110, which stands for
the byte at (HL) (R22, R87). -/
def regOfCode (c : BitVec 3) : Option Reg8 :=
  match c.toNat with
  | 0 => some .b
  | 1 => some .c
  | 2 => some .d
  | 3 => some .e
  | 4 => some .h
  | 5 => some .l
  | 6 => none
  | _ => some .a

/-- The code of a register (R22). -/
def Reg8.code : Reg8 → BitVec 3
  | .b => 0b000#3
  | .c => 0b001#3
  | .d => 0b010#3
  | .e => 0b011#3
  | .h => 0b100#3
  | .l => 0b101#3
  | .a => 0b111#3

/-- The table `PP` (R23). -/
def pairPOfCode (c : BitVec 2) : PairP :=
  match c.toNat with
  | 0 => .bc
  | 1 => .de
  | 2 => .hl
  | _ => .sp

/-- The code of a pair in the field `pp` (R23). -/
def PairP.code : PairP → BitVec 2
  | .bc => 0b00#2
  | .de => 0b01#2
  | .hl => 0b10#2
  | .sp => 0b11#2

/-- The table `QQ` (R24). -/
def pairQOfCode (c : BitVec 2) : PairQ :=
  match c.toNat with
  | 0 => .bc
  | 1 => .de
  | 2 => .hl
  | _ => .af

/-- The code of a pair in the field `qq` (R24). -/
def PairQ.code : PairQ → BitVec 2
  | .bc => 0b00#2
  | .de => 0b01#2
  | .hl => 0b10#2
  | .af => 0b11#2

/-- The condition field (R37). -/
def condOfCode (c : BitVec 2) : Cond :=
  match c.toNat with
  | 0 => .nz
  | 1 => .z
  | 2 => .nc
  | _ => .c

/-- The code of a condition (R37). -/
def Cond.code : Cond → BitVec 2
  | .nz => 0b00#2
  | .z => 0b01#2
  | .nc => 0b10#2
  | .c => 0b11#2

/-- The address `ttt * 8` of RST (R84, R231). -/
def rstTargetOfCode (c : BitVec 3) : Word := c.setWidth 16 <<< 3

/-- The field `ttt` of an RST target (R231): bits 5..3 of the address. -/
def rstCode (t : Word) : BitVec 3 := t.extractLsb' 3 3

/-! ## Lengths -/

/-- The number of bytes of an instruction, decided by its first byte alone (R80, R93). -/
def instrLength (op : Byte) : Nat :=
  if op ∈ [0x01#8, 0x08#8, 0x11#8, 0x21#8, 0x31#8, 0xC2#8, 0xC3#8, 0xC4#8, 0xCA#8, 0xCC#8, 0xCD#8, 0xD2#8, 0xD4#8,
      0xDA#8, 0xDC#8, 0xEA#8, 0xFA#8] then 3
  else if op ∈ [0x06#8, 0x0E#8, 0x16#8, 0x1E#8, 0x26#8, 0x2E#8, 0x36#8, 0x3E#8, 0xC6#8, 0xCE#8, 0xD6#8, 0xDE#8,
      0xE6#8, 0xEE#8, 0xF6#8, 0xFE#8, 0xE0#8, 0xF0#8, 0x18#8, 0x20#8, 0x28#8, 0x30#8, 0x38#8, 0xE8#8, 0xF8#8,
      0x10#8, 0xCB#8] then 2
  else 1

/-! ## The opcode maps -/

/-- The block 00h..3Fh of the unprefixed map (R88); `n` and `m` are the bytes after the opcode. -/
def decodeBlock0 (op n m : Byte) : Instr :=
  match (fieldZ op).toNat with
  | 0 =>
    match (fieldY op).toNat with
    | 0 => .nop
    | 1 => .ldNNSP (joinBytes m n)
    | 2 => .stop n
    | 3 => .jrE n
    | _ => .jrCcE (condOfCode (fieldCC op)) n
  | 1 => if (fieldY op).getLsbD 0 then .addHLPp (pairPOfCode (fieldP op)) else .ldPpNN (pairPOfCode (fieldP op)) (joinBytes m n)
  | 2 =>
    match (fieldY op).toNat with
    | 0 => .ldBCA
    | 1 => .ldABC
    | 2 => .ldDEA
    | 3 => .ldADE
    | 4 => .ldHLIA
    | 5 => .ldAHLI
    | 6 => .ldHLDA
    | _ => .ldAHLD
  | 3 => if (fieldY op).getLsbD 0 then .decPp (pairPOfCode (fieldP op)) else .incPp (pairPOfCode (fieldP op))
  | 4 =>
    match regOfCode (fieldY op) with
    | some r => .incR r
    | none => .incHL
  | 5 =>
    match regOfCode (fieldY op) with
    | some r => .decR r
    | none => .decHL
  | 6 =>
    match regOfCode (fieldY op) with
    | some r => .ldRN r n
    | none => .ldHLN n
  | _ =>
    match (fieldY op).toNat with
    | 0 => .rlca
    | 1 => .rrca
    | 2 => .rla
    | 3 => .rra
    | 4 => .daa
    | 5 => .cpl
    | 6 => .scf
    | _ => .ccf

/-- The block 40h..7Fh (R88): the 8-bit register loads, with HALT where both fields are 110 (R87, C4). -/
def decodeBlock1 (op : Byte) : Instr :=
  match regOfCode (fieldY op), regOfCode (fieldZ op) with
  | some r, some s => .ldRR r s
  | some r, none => .ldRHL r
  | none, some s => .ldHLR s
  | none, none => .halt

/-- The block 80h..BFh (R88): the ALU operations with a register or with (HL) (R83, R87). -/
def decodeBlock2 (op : Byte) : Instr :=
  match (fieldY op).toNat, regOfCode (fieldZ op) with
  | 0, some s => .addAR s
  | 0, none => .addAHL
  | 1, some s => .adcAR s
  | 1, none => .adcAHL
  | 2, some s => .subR s
  | 2, none => .subHL
  | 3, some s => .sbcAR s
  | 3, none => .sbcAHL
  | 4, some s => .andR s
  | 4, none => .andHL
  | 5, some s => .xorR s
  | 5, none => .xorHL
  | 6, some s => .orR s
  | 6, none => .orHL
  | _, some s => .cpR s
  | _, none => .cpHL

/-- The block C0h..FFh (R88) without the prefix byte CBh, which `decodeOp` treats first (R85). -/
def decodeBlock3 (op n m : Byte) : Instr :=
  match (fieldZ op).toNat with
  | 0 =>
    match (fieldY op).toNat with
    | 4 => .ldNA n
    | 5 => .addSPE n
    | 6 => .ldAN n
    | 7 => .ldhlSPE n
    | _ => .retCc (condOfCode (fieldCC op))
  | 1 =>
    match (fieldY op).toNat with
    | 1 => .ret
    | 3 => .reti
    | 5 => .jpHL
    | 7 => .ldSPHL
    | _ => .popQq (pairQOfCode (fieldP op))
  | 2 =>
    match (fieldY op).toNat with
    | 4 => .ldCA
    | 5 => .ldNNA (joinBytes m n)
    | 6 => .ldAC
    | 7 => .ldANN (joinBytes m n)
    | _ => .jpCcNN (condOfCode (fieldCC op)) (joinBytes m n)
  | 3 =>
    match (fieldY op).toNat with
    | 0 => .jpNN (joinBytes m n)
    | 1 => .cbPrefix
    | 2 => .unusedD3
    | 3 => .unusedDB
    | 4 => .unusedE3
    | 5 => .unusedEB
    | 6 => .di
    | _ => .ei
  | 4 =>
    match (fieldY op).toNat with
    | 4 => .unusedE4
    | 5 => .unusedEC
    | 6 => .unusedF4
    | 7 => .unusedFC
    | _ => .callCcNN (condOfCode (fieldCC op)) (joinBytes m n)
  | 5 =>
    match (fieldY op).toNat with
    | 1 => .callNN (joinBytes m n)
    | 3 => .unusedDD
    | 5 => .unusedED
    | 7 => .unusedFD
    | _ => .pushQq (pairQOfCode (fieldP op))
  | 6 =>
    match (fieldY op).toNat with
    | 0 => .addAN n
    | 1 => .adcAN n
    | 2 => .subN n
    | 3 => .sbcAN n
    | 4 => .andN n
    | 5 => .xorN n
    | 6 => .orN n
    | _ => .cpN n
  | _ => .rst (rstTargetOfCode (fieldY op))

/-- The rotates, shifts and SWAP of the CB map (R83, R89): second byte 00h..3Fh. -/
def decodeCbRot (op2 : Byte) : Instr :=
  match (fieldY op2).toNat, regOfCode (fieldZ op2) with
  | 0, some s => .rlcR s
  | 0, none => .rlcHL
  | 1, some s => .rrcR s
  | 1, none => .rrcHL
  | 2, some s => .rlR s
  | 2, none => .rlHL
  | 3, some s => .rrR s
  | 3, none => .rrHL
  | 4, some s => .slaR s
  | 4, none => .slaHL
  | 5, some s => .sraR s
  | 5, none => .sraHL
  | 6, some s => .swapR s
  | 6, none => .swapHL
  | _, some s => .srlR s
  | _, none => .srlHL

/-- The CB map (R89): the instruction whose second byte is `op2`. Every cell is defined. -/
def decodeCb (op2 : Byte) : Instr :=
  match (fieldX op2).toNat, regOfCode (fieldZ op2) with
  | 0, _ => decodeCbRot op2
  | 1, some s => .bitR (fieldY op2) s
  | 1, none => .bitHL (fieldY op2)
  | 2, some s => .resR (fieldY op2) s
  | 2, none => .resHL (fieldY op2)
  | _, some s => .setR (fieldY op2) s
  | _, none => .setHL (fieldY op2)

/-- The instruction whose first byte is `op` and whose further bytes, where it has them, are `n` and `m` (R95). -/
def decodeOp (op n m : Byte) : Instr :=
  if op = 0xCB#8 then decodeCb n
  else
    match (fieldX op).toNat with
    | 0 => decodeBlock0 op n m
    | 1 => decodeBlock1 op
    | 2 => decodeBlock2 op
    | _ => decodeBlock3 op n m

/-- Why a list of bytes is no instruction: it has no byte, or fewer bytes than the first one asks for. -/
inductive DecodeError where
  | noBytes
  | truncated (op : Byte)
deriving DecidableEq, Repr

/-- The decoder on a list of bytes: the instruction at its head and the bytes after it. The lone byte CBh, its
second byte not in the list, is the prefix (R85; log 17). -/
def decode : List Byte → Except DecodeError (Instr × List Byte)
  | [] => .error .noBytes
  | [op] =>
    if op = 0xCB#8 then .ok (.cbPrefix, [])
    else if instrLength op = 1 then .ok (decodeOp op 0 0, [])
    else .error (.truncated op)
  | [op, n] =>
    if instrLength op = 1 then .ok (decodeOp op 0 0, [n])
    else if instrLength op = 2 then .ok (decodeOp op n 0, [])
    else .error (.truncated op)
  | op :: n :: m :: rest =>
    if instrLength op = 1 then .ok (decodeOp op 0 0, n :: m :: rest)
    else if instrLength op = 2 then .ok (decodeOp op n 0, m :: rest)
    else .ok (decodeOp op n m, rest)

/-! ## The encoder -/

/-- An opcode byte with a register field in bits 5..3 (R82). -/
def opY (x : BitVec 2) (y z : BitVec 3) : Byte := x ++ y ++ z

/-- An opcode byte `xxppzzzz` with a pair field in bits 5..4 (R82). -/
def opP (x p : BitVec 2) (z : BitVec 4) : Byte := x ++ p ++ z

/-- An opcode byte `xxxccyyy` with a condition field in bits 4..3 (R82). -/
def opCC (x : BitVec 3) (cc : BitVec 2) (z : BitVec 3) : Byte := x ++ cc ++ z

/-- An opcode byte followed by a 16-bit immediate, low byte first (format `OP_NN`, R81). -/
def opNN (op : Byte) (nn : Word) : List Byte := [op, lo8 nn, hi8 nn]

/-- A CB-prefixed instruction (format `CB_OP`, R81). -/
def opCB (x : BitVec 2) (y z : BitVec 3) : List Byte := [0xCB#8, opY x y z]

/-- The code 110, which stands for (HL) in a register field (R87). -/
def codeHL : BitVec 3 := 0b110#3

/-- The bytes of an instruction, from the Encoding part of its rule. -/
def encode : Instr → List Byte
  | .ldRR r s => [opY 0b01#2 r.code s.code]
  | .ldHLR s => [opY 0b01#2 codeHL s.code]
  | .ldRHL r => [opY 0b01#2 r.code codeHL]
  | .ldRN r n => [opY 0b00#2 r.code 0b110#3, n]
  | .ldHLN n => [0x36#8, n]
  | .ldBCA => [0x02#8]
  | .ldABC => [0x0A#8]
  | .ldDEA => [0x12#8]
  | .ldADE => [0x1A#8]
  | .ldHLIA => [0x22#8]
  | .ldAHLI => [0x2A#8]
  | .ldHLDA => [0x32#8]
  | .ldAHLD => [0x3A#8]
  | .ldNNA nn => opNN 0xEA#8 nn
  | .ldANN nn => opNN 0xFA#8 nn
  | .ldNA n => [0xE0#8, n]
  | .ldAN n => [0xF0#8, n]
  | .ldCA => [0xE2#8]
  | .ldAC => [0xF2#8]
  | .ldPpNN p nn => opNN (opP 0b00#2 p.code 0b0001#4) nn
  | .ldNNSP nn => opNN 0x08#8 nn
  | .ldSPHL => [0xF9#8]
  | .popQq q => [opP 0b11#2 q.code 0b0001#4]
  | .pushQq q => [opP 0b11#2 q.code 0b0101#4]
  | .incPp p => [opP 0b00#2 p.code 0b0011#4]
  | .decPp p => [opP 0b00#2 p.code 0b1011#4]
  | .addHLPp p => [opP 0b00#2 p.code 0b1001#4]
  | .addSPE e => [0xE8#8, e]
  | .ldhlSPE e => [0xF8#8, e]
  | .incR r => [opY 0b00#2 r.code 0b100#3]
  | .incHL => [0x34#8]
  | .decR r => [opY 0b00#2 r.code 0b101#3]
  | .decHL => [0x35#8]
  | .addAR s => [opY 0b10#2 0b000#3 s.code]
  | .addAHL => [0x86#8]
  | .addAN n => [0xC6#8, n]
  | .adcAR s => [opY 0b10#2 0b001#3 s.code]
  | .adcAHL => [0x8E#8]
  | .adcAN n => [0xCE#8, n]
  | .subR s => [opY 0b10#2 0b010#3 s.code]
  | .subHL => [0x96#8]
  | .subN n => [0xD6#8, n]
  | .sbcAR s => [opY 0b10#2 0b011#3 s.code]
  | .sbcAHL => [0x9E#8]
  | .sbcAN n => [0xDE#8, n]
  | .cpR s => [opY 0b10#2 0b111#3 s.code]
  | .cpHL => [0xBE#8]
  | .cpN n => [0xFE#8, n]
  | .andR s => [opY 0b10#2 0b100#3 s.code]
  | .andHL => [0xA6#8]
  | .andN n => [0xE6#8, n]
  | .xorR s => [opY 0b10#2 0b101#3 s.code]
  | .xorHL => [0xAE#8]
  | .xorN n => [0xEE#8, n]
  | .orR s => [opY 0b10#2 0b110#3 s.code]
  | .orHL => [0xB6#8]
  | .orN n => [0xF6#8, n]
  | .daa => [0x27#8]
  | .rlca => [0x07#8]
  | .rrca => [0x0F#8]
  | .rla => [0x17#8]
  | .rra => [0x1F#8]
  | .rlR s => opCB 0b00#2 0b010#3 s.code
  | .rlHL => opCB 0b00#2 0b010#3 codeHL
  | .rlcR s => opCB 0b00#2 0b000#3 s.code
  | .rlcHL => opCB 0b00#2 0b000#3 codeHL
  | .rrR s => opCB 0b00#2 0b011#3 s.code
  | .rrHL => opCB 0b00#2 0b011#3 codeHL
  | .rrcR s => opCB 0b00#2 0b001#3 s.code
  | .rrcHL => opCB 0b00#2 0b001#3 codeHL
  | .slaR s => opCB 0b00#2 0b100#3 s.code
  | .slaHL => opCB 0b00#2 0b100#3 codeHL
  | .sraR s => opCB 0b00#2 0b101#3 s.code
  | .sraHL => opCB 0b00#2 0b101#3 codeHL
  | .srlR s => opCB 0b00#2 0b111#3 s.code
  | .srlHL => opCB 0b00#2 0b111#3 codeHL
  | .swapR s => opCB 0b00#2 0b110#3 s.code
  | .swapHL => opCB 0b00#2 0b110#3 codeHL
  | .bitR k s => opCB 0b01#2 k s.code
  | .bitHL k => opCB 0b01#2 k codeHL
  | .resR k s => opCB 0b10#2 k s.code
  | .resHL k => opCB 0b10#2 k codeHL
  | .setR k s => opCB 0b11#2 k s.code
  | .setHL k => opCB 0b11#2 k codeHL
  | .cpl => [0x2F#8]
  | .rst t => [opY 0b11#2 (rstCode t) 0b111#3]
  | .callNN nn => opNN 0xCD#8 nn
  | .callCcNN cc nn => opNN (opCC 0b110#3 cc.code 0b100#3) nn
  | .jpNN nn => opNN 0xC3#8 nn
  | .jpHL => [0xE9#8]
  | .jpCcNN cc nn => opNN (opCC 0b110#3 cc.code 0b010#3) nn
  | .jrE e => [0x18#8, e]
  | .jrCcE cc e => [opCC 0b001#3 cc.code 0b000#3, e]
  | .ret => [0xC9#8]
  | .retCc cc => [opCC 0b110#3 cc.code 0b000#3]
  | .reti => [0xD9#8]
  | .di => [0xF3#8]
  | .ei => [0xFB#8]
  | .halt => [0x76#8]
  | .stop x => [0x10#8, x]
  | .nop => [0x00#8]
  | .scf => [0x37#8]
  | .ccf => [0x3F#8]
  | .cbPrefix => [0xCB#8]
  | .unusedD3 => [0xD3#8]
  | .unusedDB => [0xDB#8]
  | .unusedDD => [0xDD#8]
  | .unusedE3 => [0xE3#8]
  | .unusedE4 => [0xE4#8]
  | .unusedEB => [0xEB#8]
  | .unusedEC => [0xEC#8]
  | .unusedED => [0xED#8]
  | .unusedF4 => [0xF4#8]
  | .unusedFC => [0xFC#8]
  | .unusedFD => [0xFD#8]

/-! ## The opcode table's words -/

/-- Byte `i` of a number, byte 0 the least significant. -/
def byteAt (w i : Nat) : Byte := BitVec.ofNat 8 (w / 256 ^ i)

/-- The low `k` bytes of `w`, the least significant first. -/
def bytesUp (k w : Nat) : List Byte := (List.range k).map (byteAt w)

/-- Whether a list of bytes is one whole instruction. -/
def isWhole (bs : List Byte) : Bool :=
  match decode bs with
  | .ok (_, []) => true
  | _ => false

/-- The bytes, lowest address first, of an opcode-table word of `nbits` bits. The table's rows number a two- or
three-byte pattern as one number whose most significant byte is the first byte; a word numbered from the first
byte up is read too. Of the two orders the one that is a whole instruction is taken, a CB prefix first of all
(log 18). -/
def tableBytes (nbits w : Nat) : List Byte :=
  let up := bytesUp (nbits / 8) w
  let down := up.reverse
  if up.head? = some 0xCB#8 ∧ isWhole up then up
  else if isWhole down then down
  else if isWhole up then up
  else down

/-- The instruction the decoder reads from an opcode-table word; bytes the table gives no bits are 0. -/
def decodeTableWord (nbits w : Nat) : Option Instr :=
  match decode (tableBytes nbits w) with
  | .ok (i, _) => some i
  | .error _ =>
    match decode (tableBytes nbits w ++ [0#8, 0#8, 0#8]) with
    | .ok (i, _) => some i
    | .error _ => none

end Sys2Proof
end

