-- ==== Sys2Proof/Machine/CbPrefix.lean ====
section
/-! DEFINITION. The prefix byte CBh as a row of the opcode table (R85): it reads the second byte of the pair and does
what that byte's cell of the CB map says (R83, R89; log 17). -/

namespace Sys2Proof.Machine

/-- The operand of a cell of the CB map: code 110 is (HL) (R87, R89). -/
def placeOfCode (c : BitVec 3) : Place8 :=
  match regOfCode c with
  | some r => .reg r
  | none => .hl

/-- The operation of a cell 00h..3Fh of the CB map (R83). -/
def rotOpOfCode (c : BitVec 3) : RotOp :=
  match c.toNat with
  | 0 => .rlc
  | 1 => .rrc
  | 2 => .rl
  | 3 => .rr
  | 4 => .sla
  | 5 => .sra
  | 6 => .swap
  | _ => .srl

/-- The cycle count of a cell of the CB map, the prefix included: 2 on a register; on (HL) 3 for BIT, else 4
(R85, R308). -/
def cbCycles (op2 : Byte) : Nat :=
  match placeOfCode (fieldZ op2) with
  | .reg _ => 2
  | .hl => if fieldX op2 = 0b01#2 then 3 else 4

/-- A cell of the CB map, by the fields of its byte (R83, R89). -/
def State.cbCell (s : State) (op2 : Byte) : State :=
  match (fieldX op2).toNat with
  | 0 => (s.advance 2 (cbCycles op2)).modify (placeOfCode (fieldZ op2)) (rot8 (rotOpOfCode (fieldY op2)))
  | 1 => (s.advance 2 (cbCycles op2)).testBit (fieldY op2) (placeOfCode (fieldZ op2))
  | 2 => (s.advance 2 (cbCycles op2)).modify (placeOfCode (fieldZ op2)) (res8 (fieldY op2))
  | _ => (s.advance 2 (cbCycles op2)).modify (placeOfCode (fieldZ op2)) (set8 (fieldY op2))

/-- The prefix byte CBh at PC: the pair is one instruction (R85, D34). -/
def execCbPrefix (s : State) : Host.Outcome State Fault Refusal :=
  .next ((s.memRead (s.pc + 1)).2.cbCell (s.memRead (s.pc + 1)).1)

end Sys2Proof.Machine
end

