-- ==== Sys2Proof/Machine/ControlFlow.lean ====
section
/-! DEFINITION. The Control flow group (`45_control_flow.md`, R230 to R242). A meaning starts with PC at the instruction's first byte, moves
PC past the instruction and counts its cycles (`State.advance`; R28, R95, R308; log 20), then does what the rule's
Operation says. -/

namespace Sys2Proof.Machine

/-- `RST t` (R231). -/
def execRst (t : Word) (s : State) : Host.Outcome State Fault Refusal :=
  .next ((s.advance 1 4).call t)

/-- `CALL nn` (R232). -/
def execCallNN (nn : Word) (s : State) : Host.Outcome State Fault Refusal :=
  .next ((s.advance 3 6).call nn)

/-- `CALL cc,nn` (R233): 6 cycles when the condition is true, 3 when false. -/
def execCallCcNN (cc : Cond) (nn : Word) (s : State) : Host.Outcome State Fault Refusal :=
  if s.cond cc then .next (((s.advance 3 3).spend 3).call nn) else .next (s.advance 3 3)

/-- `JP nn` (R234). -/
def execJpNN (nn : Word) (s : State) : Host.Outcome State Fault Refusal :=
  .next ((s.advance 3 4).jump nn)

/-- `JP (HL)` (R235): no memory is read (C6). -/
def execJpHL (s : State) : Host.Outcome State Fault Refusal :=
  .next ((s.advance 1 1).jump s.hl)

/-- `JP cc,nn` (R236): 4 cycles when the condition is true, 3 when false. -/
def execJpCcNN (cc : Cond) (nn : Word) (s : State) : Host.Outcome State Fault Refusal :=
  if s.cond cc then .next (((s.advance 3 3).spend 1).jump nn) else .next (s.advance 3 3)

/-- `JR e` (R237): relative to the address after the instruction. -/
def execJrE (e : Byte) (s : State) : Host.Outcome State Fault Refusal :=
  .next ((s.advance 2 3).jump ((s.advance 2 3).pc + sext16 e))

/-- `JR cc,e` (R238): 3 cycles when the condition is true, 2 when false. -/
def execJrCcE (cc : Cond) (e : Byte) (s : State) : Host.Outcome State Fault Refusal :=
  if s.cond cc then .next (((s.advance 2 2).spend 1).jump ((s.advance 2 2).pc + sext16 e)) else .next (s.advance 2 2)

/-- `RET` (R239). -/
def execRet (s : State) : Host.Outcome State Fault Refusal :=
  .next ((s.advance 1 4).ret)

/-- `RET cc` (R240): 5 cycles when the condition is true, 2 when false. -/
def execRetCc (cc : Cond) (s : State) : Host.Outcome State Fault Refusal :=
  if s.cond cc then .next (((s.advance 1 2).spend 3).ret) else .next (s.advance 1 2)

/-- `RETI` (R241). -/
def execReti (s : State) : Host.Outcome State Fault Refusal :=
  .next ((s.advance 1 4).interruptReturn)

end Sys2Proof.Machine
end

