-- ==== Sys2Proof/Machine/CpuControl.lean ====
section
/-! DEFINITION. The CPU control group (`46_cpu_control.md`, R249 to R257). A meaning starts with PC at the instruction's first byte, moves
PC past the instruction and counts its cycles (`State.advance`; R28, R95, R308; log 20), then does what the rule's
Operation says. -/

namespace Sys2Proof.Machine

/-- `DI` (R250). -/
def execDi (s : State) : Host.Outcome State Fault Refusal :=
  .next { s.advance 1 1 with ime := false }

/-- `EI` (R251): at once, with no delay (D27; log 10). -/
def execEi (s : State) : Host.Outcome State Fault Refusal :=
  .next { s.advance 1 1 with ime := true }

/-- `HALT` (R252). -/
def execHalt (s : State) : Host.Outcome State Fault Refusal :=
  .next { s.advance 1 1 with run := .halted }

/-- `STOP` (R253): the second byte is ignored (C1; log 26); under STOP_MODE = Refuse the model rejects the
execution (D29; log 7). -/
def execStop (_x : Byte) (s : State) : Host.Outcome State Fault Refusal :=
  match s.platform.stopMode with
  | .untilReset => .next { s.advance 2 1 with run := .stopped }
  | .refuse => .refused .stopRefused

/-- `NOP` (R254). -/
def execNop (s : State) : Host.Outcome State Fault Refusal :=
  .next (s.advance 1 1)

/-- `SCF` (R255). -/
def execScf (s : State) : Host.Outcome State Fault Refusal :=
  .next { s.advance 1 1 with f := scfFlags s.f }

/-- `CCF` (R256; log 8). -/
def execCcf (s : State) : Host.Outcome State Fault Refusal :=
  .next { s.advance 1 1 with f := ccfFlags s.platform.ccfH s.f }

end Sys2Proof.Machine
end

