-- ==== Sys2Proof/Machine/Load.lean ====
section
/-! DEFINITION. The Load group (`40_load.md`, R110 to R134). A meaning starts with PC at the instruction's first byte, moves
PC past the instruction and counts its cycles (`State.advance`; R28, R95, R308; log 20), then does what the rule's
Operation says. -/

namespace Sys2Proof.Machine

/-- `LD r,s` (R111). -/
def execLdRR (r : Reg8) (q : Reg8) (s : State) : Host.Outcome State Fault Refusal :=
  .next ((s.advance 1 1).setReg r (s.reg q))

/-- `LD (HL),r` (R112). -/
def execLdHLR (q : Reg8) (s : State) : Host.Outcome State Fault Refusal :=
  .next ((s.advance 1 2).memWrite s.hl (s.reg q))

/-- `LD r,(HL)` (R113): the old HL is the address. -/
def execLdRHL (r : Reg8) (s : State) : Host.Outcome State Fault Refusal :=
  .next ((s.advance 1 2).loadReg r s.hl)

/-- `LD r,n` (R114). -/
def execLdRN (r : Reg8) (n : Byte) (s : State) : Host.Outcome State Fault Refusal :=
  .next ((s.advance 2 2).setReg r n)

/-- `LD (HL),n` (R115). -/
def execLdHLN (n : Byte) (s : State) : Host.Outcome State Fault Refusal :=
  .next ((s.advance 2 3).memWrite s.hl n)

/-- `LD (BC),A` (R116). -/
def execLdBCA (s : State) : Host.Outcome State Fault Refusal :=
  .next ((s.advance 1 2).memWrite s.bc s.a)

/-- `LD A,(BC)` (R117). -/
def execLdABC (s : State) : Host.Outcome State Fault Refusal :=
  .next ((s.advance 1 2).loadReg .a s.bc)

/-- `LD (DE),A` (R118). -/
def execLdDEA (s : State) : Host.Outcome State Fault Refusal :=
  .next ((s.advance 1 2).memWrite s.de s.a)

/-- `LD A,(DE)` (R119). -/
def execLdADE (s : State) : Host.Outcome State Fault Refusal :=
  .next ((s.advance 1 2).loadReg .a s.de)

/-- `LD (HLI),A` (R120): the store uses HL before the increment. -/
def execLdHLIA (s : State) : Host.Outcome State Fault Refusal :=
  .next (((s.advance 1 2).memWrite s.hl s.a).setHL (s.hl + 1))

/-- `LD A,(HLI)` (R121). -/
def execLdAHLI (s : State) : Host.Outcome State Fault Refusal :=
  .next (((s.advance 1 2).loadReg .a s.hl).setHL (s.hl + 1))

/-- `LD (HLD),A` (R122): the store uses HL before the decrement. -/
def execLdHLDA (s : State) : Host.Outcome State Fault Refusal :=
  .next (((s.advance 1 2).memWrite s.hl s.a).setHL (s.hl - 1))

/-- `LD A,(HLD)` (R123). -/
def execLdAHLD (s : State) : Host.Outcome State Fault Refusal :=
  .next (((s.advance 1 2).loadReg .a s.hl).setHL (s.hl - 1))

/-- `LD (nn),A` (R124). -/
def execLdNNA (nn : Word) (s : State) : Host.Outcome State Fault Refusal :=
  .next ((s.advance 3 4).memWrite nn s.a)

/-- `LD A,(nn)` (R125). -/
def execLdANN (nn : Word) (s : State) : Host.Outcome State Fault Refusal :=
  .next ((s.advance 3 4).loadReg .a nn)

/-- `LD (n),A` (R126). -/
def execLdNA (n : Byte) (s : State) : Host.Outcome State Fault Refusal :=
  .next ((s.advance 2 3).memWrite (ioAddr n) s.a)

/-- `LD A,(n)` (R127). -/
def execLdAN (n : Byte) (s : State) : Host.Outcome State Fault Refusal :=
  .next ((s.advance 2 3).loadReg .a (ioAddr n))

/-- `LD (C),A` (R128): only C forms the address. -/
def execLdCA (s : State) : Host.Outcome State Fault Refusal :=
  .next ((s.advance 1 2).memWrite (ioAddr s.c) s.a)

/-- `LD A,(C)` (R129). -/
def execLdAC (s : State) : Host.Outcome State Fault Refusal :=
  .next ((s.advance 1 2).loadReg .a (ioAddr s.c))

/-- `LD pp,nn` (R130). -/
def execLdPpNN (p : PairP) (nn : Word) (s : State) : Host.Outcome State Fault Refusal :=
  .next ((s.advance 3 3).setPairP p nn)

/-- `LD (nn),SP` (R131): low byte at `nn`, high byte at `nn + 1` (R56, D13; log 14). -/
def execLdNNSP (nn : Word) (s : State) : Host.Outcome State Fault Refusal :=
  .next ((s.advance 3 5).memWrite2 nn s.sp)

/-- `LD SP,HL` (R132). -/
def execLdSPHL (s : State) : Host.Outcome State Fault Refusal :=
  .next { s.advance 1 2 with sp := s.hl }

/-- `POP qq` (R133); POP AF loads the flags (C3; log 23). -/
def execPopQq (p : PairQ) (s : State) : Host.Outcome State Fault Refusal :=
  .next ((s.advance 1 3).pop16.2.setPairQ p (s.advance 1 3).pop16.1)

/-- `PUSH qq` (R134). -/
def execPushQq (p : PairQ) (s : State) : Host.Outcome State Fault Refusal :=
  .next ((s.advance 1 4).push16 (s.pairQ p))

end Sys2Proof.Machine
end

