-- ==== Sys2Proof/Machine/Rot.lean ====
section
/-! DEFINITION. The ROT group (`43_rot.md`, R190 to R210). A meaning starts with PC at the instruction's first byte, moves
PC past the instruction and counts its cycles (`State.advance`; R28, R95, R308; log 20), then does what the rule's
Operation says. -/

namespace Sys2Proof.Machine

/-- `RLCA` (R191): ZF is cleared, not computed. -/
def execRlca (s : State) : Host.Outcome State Fault Refusal :=
  .next ((s.advance 1 1).modifyA (rotFast .rlc))

/-- `RRCA` (R192): ZF is cleared, not computed. -/
def execRrca (s : State) : Host.Outcome State Fault Refusal :=
  .next ((s.advance 1 1).modifyA (rotFast .rrc))

/-- `RLA` (R193): ZF is cleared, not computed. -/
def execRla (s : State) : Host.Outcome State Fault Refusal :=
  .next ((s.advance 1 1).modifyA (rotFast .rl))

/-- `RRA` (R194): ZF is cleared, not computed. -/
def execRra (s : State) : Host.Outcome State Fault Refusal :=
  .next ((s.advance 1 1).modifyA (rotFast .rr))

/-- `RL r` (R195). -/
def execRlR (q : Reg8) (s : State) : Host.Outcome State Fault Refusal :=
  .next ((s.advance 2 2).modify (.reg q) (rot8 .rl))

/-- `RL (HL)` (R196). -/
def execRlHL (s : State) : Host.Outcome State Fault Refusal :=
  .next ((s.advance 2 4).modify .hl (rot8 .rl))

/-- `RLC r` (R197). -/
def execRlcR (q : Reg8) (s : State) : Host.Outcome State Fault Refusal :=
  .next ((s.advance 2 2).modify (.reg q) (rot8 .rlc))

/-- `RLC (HL)` (R198). -/
def execRlcHL (s : State) : Host.Outcome State Fault Refusal :=
  .next ((s.advance 2 4).modify .hl (rot8 .rlc))

/-- `RR r` (R199). -/
def execRrR (q : Reg8) (s : State) : Host.Outcome State Fault Refusal :=
  .next ((s.advance 2 2).modify (.reg q) (rot8 .rr))

/-- `RR (HL)` (R200). -/
def execRrHL (s : State) : Host.Outcome State Fault Refusal :=
  .next ((s.advance 2 4).modify .hl (rot8 .rr))

/-- `RRC r` (R201). -/
def execRrcR (q : Reg8) (s : State) : Host.Outcome State Fault Refusal :=
  .next ((s.advance 2 2).modify (.reg q) (rot8 .rrc))

/-- `RRC (HL)` (R202). -/
def execRrcHL (s : State) : Host.Outcome State Fault Refusal :=
  .next ((s.advance 2 4).modify .hl (rot8 .rrc))

/-- `SLA r` (R203). -/
def execSlaR (q : Reg8) (s : State) : Host.Outcome State Fault Refusal :=
  .next ((s.advance 2 2).modify (.reg q) (rot8 .sla))

/-- `SLA (HL)` (R204). -/
def execSlaHL (s : State) : Host.Outcome State Fault Refusal :=
  .next ((s.advance 2 4).modify .hl (rot8 .sla))

/-- `SRA r` (R205). -/
def execSraR (q : Reg8) (s : State) : Host.Outcome State Fault Refusal :=
  .next ((s.advance 2 2).modify (.reg q) (rot8 .sra))

/-- `SRA (HL)` (R206). -/
def execSraHL (s : State) : Host.Outcome State Fault Refusal :=
  .next ((s.advance 2 4).modify .hl (rot8 .sra))

/-- `SRL r` (R207). -/
def execSrlR (q : Reg8) (s : State) : Host.Outcome State Fault Refusal :=
  .next ((s.advance 2 2).modify (.reg q) (rot8 .srl))

/-- `SRL (HL)` (R208). -/
def execSrlHL (s : State) : Host.Outcome State Fault Refusal :=
  .next ((s.advance 2 4).modify .hl (rot8 .srl))

/-- `SWAP r` (R209). -/
def execSwapR (q : Reg8) (s : State) : Host.Outcome State Fault Refusal :=
  .next ((s.advance 2 2).modify (.reg q) (rot8 .swap))

/-- `SWAP (HL)` (R210). -/
def execSwapHL (s : State) : Host.Outcome State Fault Refusal :=
  .next ((s.advance 2 4).modify .hl (rot8 .swap))

end Sys2Proof.Machine
end

