-- ==== Sys2Proof/Machine/Unused.lean ====
section
/-! DEFINITION. The eleven unused opcodes (`60_exceptions.md` R270). A meaning starts with PC at the instruction's first byte, moves
PC past the instruction and counts its cycles (`State.advance`; R28, R95, R308; log 20), then does what the rule's
Operation says. -/

namespace Sys2Proof.Machine

/-- The unused opcode D3h (R86, R270; log 16). -/
def execUnusedD3 (s : State) : Host.Outcome State Fault Refusal :=
  .next s.lockUp

/-- The unused opcode DBh (R86, R270; log 16). -/
def execUnusedDB (s : State) : Host.Outcome State Fault Refusal :=
  .next s.lockUp

/-- The unused opcode DDh (R86, R270; log 16). -/
def execUnusedDD (s : State) : Host.Outcome State Fault Refusal :=
  .next s.lockUp

/-- The unused opcode E3h (R86, R270; log 16). -/
def execUnusedE3 (s : State) : Host.Outcome State Fault Refusal :=
  .next s.lockUp

/-- The unused opcode E4h (R86, R270; log 16). -/
def execUnusedE4 (s : State) : Host.Outcome State Fault Refusal :=
  .next s.lockUp

/-- The unused opcode EBh (R86, R270; log 16). -/
def execUnusedEB (s : State) : Host.Outcome State Fault Refusal :=
  .next s.lockUp

/-- The unused opcode ECh (R86, R270; log 16). -/
def execUnusedEC (s : State) : Host.Outcome State Fault Refusal :=
  .next s.lockUp

/-- The unused opcode EDh (R86, R270; log 16). -/
def execUnusedED (s : State) : Host.Outcome State Fault Refusal :=
  .next s.lockUp

/-- The unused opcode F4h (R86, R270; log 16). -/
def execUnusedF4 (s : State) : Host.Outcome State Fault Refusal :=
  .next s.lockUp

/-- The unused opcode FCh (R86, R270; log 16). -/
def execUnusedFC (s : State) : Host.Outcome State Fault Refusal :=
  .next s.lockUp

/-- The unused opcode FDh (R86, R270; log 16). -/
def execUnusedFD (s : State) : Host.Outcome State Fault Refusal :=
  .next s.lockUp

end Sys2Proof.Machine
end

