-- ==== Sys2Proof/Machine/Dispatch.lean ====
section
/-! DEFINITION. The dispatch: one arm per instruction, each one direct call of its meaning. -/

namespace Sys2Proof.Machine

def exec (i : Instr) (s : State) : Host.Outcome State Fault Refusal :=
  match i with
  | .ldRR r q => Sys2Proof.Machine.execLdRR r q s
  | .ldHLR q => Sys2Proof.Machine.execLdHLR q s
  | .ldRHL r => Sys2Proof.Machine.execLdRHL r s
  | .ldRN r n => Sys2Proof.Machine.execLdRN r n s
  | .ldHLN n => Sys2Proof.Machine.execLdHLN n s
  | .ldBCA => Sys2Proof.Machine.execLdBCA s
  | .ldABC => Sys2Proof.Machine.execLdABC s
  | .ldDEA => Sys2Proof.Machine.execLdDEA s
  | .ldADE => Sys2Proof.Machine.execLdADE s
  | .ldHLIA => Sys2Proof.Machine.execLdHLIA s
  | .ldAHLI => Sys2Proof.Machine.execLdAHLI s
  | .ldHLDA => Sys2Proof.Machine.execLdHLDA s
  | .ldAHLD => Sys2Proof.Machine.execLdAHLD s
  | .ldNNA nn => Sys2Proof.Machine.execLdNNA nn s
  | .ldANN nn => Sys2Proof.Machine.execLdANN nn s
  | .ldNA n => Sys2Proof.Machine.execLdNA n s
  | .ldAN n => Sys2Proof.Machine.execLdAN n s
  | .ldCA => Sys2Proof.Machine.execLdCA s
  | .ldAC => Sys2Proof.Machine.execLdAC s
  | .ldPpNN p nn => Sys2Proof.Machine.execLdPpNN p nn s
  | .ldNNSP nn => Sys2Proof.Machine.execLdNNSP nn s
  | .ldSPHL => Sys2Proof.Machine.execLdSPHL s
  | .popQq q => Sys2Proof.Machine.execPopQq q s
  | .pushQq q => Sys2Proof.Machine.execPushQq q s
  | .incPp p => Sys2Proof.Machine.execIncPp p s
  | .decPp p => Sys2Proof.Machine.execDecPp p s
  | .addHLPp p => Sys2Proof.Machine.execAddHLPp p s
  | .addSPE e => Sys2Proof.Machine.execAddSPE e s
  | .ldhlSPE e => Sys2Proof.Machine.execLdhlSPE e s
  | .incR r => Sys2Proof.Machine.execIncR r s
  | .incHL => Sys2Proof.Machine.execIncHL s
  | .decR r => Sys2Proof.Machine.execDecR r s
  | .decHL => Sys2Proof.Machine.execDecHL s
  | .addAR q => Sys2Proof.Machine.execAddAR q s
  | .addAHL => Sys2Proof.Machine.execAddAHL s
  | .addAN n => Sys2Proof.Machine.execAddAN n s
  | .adcAR q => Sys2Proof.Machine.execAdcAR q s
  | .adcAHL => Sys2Proof.Machine.execAdcAHL s
  | .adcAN n => Sys2Proof.Machine.execAdcAN n s
  | .subR q => Sys2Proof.Machine.execSubR q s
  | .subHL => Sys2Proof.Machine.execSubHL s
  | .subN n => Sys2Proof.Machine.execSubN n s
  | .sbcAR q => Sys2Proof.Machine.execSbcAR q s
  | .sbcAHL => Sys2Proof.Machine.execSbcAHL s
  | .sbcAN n => Sys2Proof.Machine.execSbcAN n s
  | .cpR q => Sys2Proof.Machine.execCpR q s
  | .cpHL => Sys2Proof.Machine.execCpHL s
  | .cpN n => Sys2Proof.Machine.execCpN n s
  | .andR q => Sys2Proof.Machine.execAndR q s
  | .andHL => Sys2Proof.Machine.execAndHL s
  | .andN n => Sys2Proof.Machine.execAndN n s
  | .xorR q => Sys2Proof.Machine.execXorR q s
  | .xorHL => Sys2Proof.Machine.execXorHL s
  | .xorN n => Sys2Proof.Machine.execXorN n s
  | .orR q => Sys2Proof.Machine.execOrR q s
  | .orHL => Sys2Proof.Machine.execOrHL s
  | .orN n => Sys2Proof.Machine.execOrN n s
  | .daa => Sys2Proof.Machine.execDaa s
  | .rlca => Sys2Proof.Machine.execRlca s
  | .rrca => Sys2Proof.Machine.execRrca s
  | .rla => Sys2Proof.Machine.execRla s
  | .rra => Sys2Proof.Machine.execRra s
  | .rlR q => Sys2Proof.Machine.execRlR q s
  | .rlHL => Sys2Proof.Machine.execRlHL s
  | .rlcR q => Sys2Proof.Machine.execRlcR q s
  | .rlcHL => Sys2Proof.Machine.execRlcHL s
  | .rrR q => Sys2Proof.Machine.execRrR q s
  | .rrHL => Sys2Proof.Machine.execRrHL s
  | .rrcR q => Sys2Proof.Machine.execRrcR q s
  | .rrcHL => Sys2Proof.Machine.execRrcHL s
  | .slaR q => Sys2Proof.Machine.execSlaR q s
  | .slaHL => Sys2Proof.Machine.execSlaHL s
  | .sraR q => Sys2Proof.Machine.execSraR q s
  | .sraHL => Sys2Proof.Machine.execSraHL s
  | .srlR q => Sys2Proof.Machine.execSrlR q s
  | .srlHL => Sys2Proof.Machine.execSrlHL s
  | .swapR q => Sys2Proof.Machine.execSwapR q s
  | .swapHL => Sys2Proof.Machine.execSwapHL s
  | .bitR k q => Sys2Proof.Machine.execBitR k q s
  | .bitHL k => Sys2Proof.Machine.execBitHL k s
  | .resR k q => Sys2Proof.Machine.execResR k q s
  | .resHL k => Sys2Proof.Machine.execResHL k s
  | .setR k q => Sys2Proof.Machine.execSetR k q s
  | .setHL k => Sys2Proof.Machine.execSetHL k s
  | .cpl => Sys2Proof.Machine.execCpl s
  | .rst t => Sys2Proof.Machine.execRst t s
  | .callNN nn => Sys2Proof.Machine.execCallNN nn s
  | .callCcNN cc nn => Sys2Proof.Machine.execCallCcNN cc nn s
  | .jpNN nn => Sys2Proof.Machine.execJpNN nn s
  | .jpHL => Sys2Proof.Machine.execJpHL s
  | .jpCcNN cc nn => Sys2Proof.Machine.execJpCcNN cc nn s
  | .jrE e => Sys2Proof.Machine.execJrE e s
  | .jrCcE cc e => Sys2Proof.Machine.execJrCcE cc e s
  | .ret => Sys2Proof.Machine.execRet s
  | .retCc cc => Sys2Proof.Machine.execRetCc cc s
  | .reti => Sys2Proof.Machine.execReti s
  | .di => Sys2Proof.Machine.execDi s
  | .ei => Sys2Proof.Machine.execEi s
  | .halt => Sys2Proof.Machine.execHalt s
  | .stop x => Sys2Proof.Machine.execStop x s
  | .nop => Sys2Proof.Machine.execNop s
  | .scf => Sys2Proof.Machine.execScf s
  | .ccf => Sys2Proof.Machine.execCcf s
  | .cbPrefix => Sys2Proof.Machine.execCbPrefix s
  | .unusedD3 => Sys2Proof.Machine.execUnusedD3 s
  | .unusedDB => Sys2Proof.Machine.execUnusedDB s
  | .unusedDD => Sys2Proof.Machine.execUnusedDD s
  | .unusedE3 => Sys2Proof.Machine.execUnusedE3 s
  | .unusedE4 => Sys2Proof.Machine.execUnusedE4 s
  | .unusedEB => Sys2Proof.Machine.execUnusedEB s
  | .unusedEC => Sys2Proof.Machine.execUnusedEC s
  | .unusedED => Sys2Proof.Machine.execUnusedED s
  | .unusedF4 => Sys2Proof.Machine.execUnusedF4 s
  | .unusedFC => Sys2Proof.Machine.execUnusedFC s
  | .unusedFD => Sys2Proof.Machine.execUnusedFD s

end Sys2Proof.Machine
end

