-- ==== Sys2Proof/Machine/Fetch.lean ====
section
/-! DEFINITION. The fetch of one instruction (R95), and an opcode-table word placed where the fetch reads it. -/

namespace Sys2Proof.Machine

/-- The instruction at PC and the state after its bytes are read, in ascending address order and no further byte
(R95). PC is moved past them by the instruction's meaning (log 20). -/
def State.fetch (s : State) : Instr × State :=
  let (op, s₁) := s.memRead s.pc
  if instrLength op = 1 then (decodeOp op 0 0, s₁)
  else
    let (n, s₂) := s₁.memRead (s.pc + 1)
    if instrLength op = 2 then (decodeOp op n 0, s₂)
    else
      let (m, s₃) := s₂.memRead (s.pc + 2)
      (decodeOp op n m, s₃)

/-- Whether an address lies in a range. -/
def rangeHolds (r : AddrRange) (a : Word) : Bool := decide (r.first ≤ a.toNat) && decide (a.toNat ≤ r.last)

/-- The bytes of an opcode-table word, with zeros up to the longest instruction, stored at PC as plain memory, the
CPU running, and nothing asserted or pending at the coming boundaries (logs 18 and 19). -/
def State.placeFetchWord (s : State) (nbits w : Nat) : State :=
  let bs := tableBytes nbits w
  let m := ((s.mem.write s.pc (bs.getD 0 0)).write (s.pc + 1) (bs.getD 1 0)).write (s.pc + 2) (bs.getD 2 0)
  { s with
    mem := m
    run := .running
    inputs := []
    platform := { s.platform with
      ranges := s.platform.ranges.filter fun r =>
        !(rangeHolds r s.pc || rangeHolds r (s.pc + 1) || rangeHolds r (s.pc + 2)) } }

end Sys2Proof.Machine
end

