-- ==== Sys2Proof/Machine/Step.lean ====
section
/-! DEFINITION. The step of the machine (`60_exceptions.md` R260). -/

namespace Sys2Proof.Machine

/-- One step: the instruction boundary (R260 (1) to (5)), and where it asks for it, one instruction fetched,
decoded and executed entire (R260 (6)). -/
def step (s : State) : Host.Outcome State Fault Refusal :=
  match s.boundary with
  | .ends t => .next t
  | .executes t => exec t.fetch.1 t.fetch.2

/-- `s` with an opcode-table word stored where `step` fetches its next instruction (log 19). -/
def State.withFetchWord (s : State) (nbits w : Nat) : State := s.placeFetchWord nbits w

end Sys2Proof.Machine
end

