-- ==== Sys2Proof/Safety.lean ====
section
/-! DEFINITION. The vocabulary of the claims: what a store leaves in memory, the invariant of the state, the spec's
flag and cycle tables (R35, R308) as data, and packed BCD. -/

namespace Sys2Proof.Machine

/-! ## What stores leave behind -/

/-- The byte of plain memory at `x` after the given byte stores, the latest first; a store to an address that is
not plain memory changes no plain memory (R52, U15). -/
def storedByte (p : Platform) (m : Memory) : List (Word × Byte) → Word → Byte
  | [], x => m.read x
  | (a, v) :: earlier, x => if x = a ∧ platformOwns p a = false then v else storedByte p m earlier x

/-- The bus history after the given byte stores, the latest first (R52, R59). -/
def busAfterWrites (p : Platform) (bus : List BusEvent) : List (Word × Byte) → List BusEvent
  | [] => bus
  | (a, v) :: earlier =>
    if platformOwns p a then .write a v :: busAfterWrites p bus earlier else busAfterWrites p bus earlier

/-- `t` has the memory and the bus history of `s` after exactly the given byte stores, the latest first. EVERY byte of
memory outside them reads as before. -/
def Stores (s t : State) (ws : List (Word × Byte)) : Prop :=
  (∀ x, t.mem.read x = storedByte s.platform s.mem ws x) ∧ t.bus = busAfterWrites s.platform s.bus ws

/-- The state after the two reads of a pop at SP and SP + 1, the first read's bus history in place (R58). -/
def State.afterRead (s : State) (a : Word) : State := { s with bus := s.busAfterRead a }

/-- The low byte at the top of the stack, read first (R58). -/
def State.stackLo (s : State) : Byte := s.busByte s.sp

/-- The high byte of the word on the stack, read second (R58). -/
def State.stackHi (s : State) : Byte := (s.afterRead s.sp).busByte (s.sp + 1)

/-- The bus history after both bytes of the word on the stack are read. -/
def State.busAfterPop (s : State) : List BusEvent := (s.afterRead s.sp).busAfterRead (s.sp + 1)

/-! ## Shapes of claims -/

/-- The invariant of the state: memory is in its canonical form. -/
def State.Inv (s : State) : Prop := s.mem.wf = true

/-- The three forms of a two-operand ALU operation (R150): with a register (1 byte, 1 cycle), with the byte at (HL)
(1 byte, 2 cycles, one read), with an immediate (2 bytes, 2 cycles). `g a x f` is what A and the flags become; no
other part of the state changes but PC, the cycle count and the bus history of the read. -/
def AluForms (withReg : Reg8 → Instr) (withHL : Instr) (withImm : Byte → Instr) (g : Byte → Byte → Flags → Byte × Flags) :
    Prop :=
  ∀ s : State,
    (∀ q, exec (withReg q) s =
      .next { s with a := (g s.a (s.reg q) s.f).1, f := (g s.a (s.reg q) s.f).2, pc := s.pc + 1, cycles := s.cycles + 1 }) ∧
    exec withHL s =
      .next { s with
        a := (g s.a (s.busByte s.hl) s.f).1, f := (g s.a (s.busByte s.hl) s.f).2, pc := s.pc + 1, cycles := s.cycles + 2
        bus := s.busAfterRead s.hl } ∧
    ∀ n, exec (withImm n) s =
      .next { s with a := (g s.a n s.f).1, f := (g s.a n s.f).2, pc := s.pc + 2, cycles := s.cycles + 2 }

/-- The register form of an operation in place: `len` bytes, `cyc` cycles; the register becomes `(g v f).1` and the
flags `(g v f).2` for its old value `v`, and nothing else changes but PC and the cycle count. -/
def InPlaceReg (i : Reg8 → Instr) (len : Word) (cyc : Nat) (g : Byte → Flags → Byte × Flags) : Prop :=
  ∀ (s : State) (q : Reg8), exec (i q) s =
    .next { s.setReg q (g (s.reg q) s.f).1 with f := (g (s.reg q) s.f).2, pc := s.pc + len, cycles := s.cycles + cyc }

/-- The (HL) form of an operation in place: one read, then one store of the byte at HL (R59); every other byte of
memory, every register and everything else but the flags, PC and the cycle count stays. -/
def InPlaceHL (i : Instr) (len : Word) (cyc : Nat) (g : Byte → Flags → Byte × Flags) : Prop :=
  ∀ s : State, s.Inv → ∃ t, exec i s = .next t ∧
    t = { s with
      f := (g (s.busByte s.hl) s.f).2, pc := s.pc + len, cycles := s.cycles + cyc, mem := t.mem, bus := t.bus } ∧
    Stores (s.afterRead s.hl) t [(s.hl, (g (s.busByte s.hl) s.f).1)]

/-- Both forms of an operation in place: on a register and on the byte at HL. -/
def InPlaceForms (withReg : Reg8 → Instr) (withHL : Instr) (len : Word) (cycReg cycHL : Nat)
    (g : Byte → Flags → Byte × Flags) : Prop :=
  InPlaceReg withReg len cycReg g ∧ InPlaceHL withHL len cycHL g

/-- A law of the three forms of a two-operand ALU operation: each answers a next state `t`, and `P s x t` holds of the
state before, the operand byte and the state after. -/
def AluLaw (withReg : Reg8 → Instr) (withHL : Instr) (withImm : Byte → Instr) (P : State → Byte → State → Prop) : Prop :=
  ∀ s : State,
    (∀ q, ∃ t, exec (withReg q) s = .next t ∧ P s (s.reg q) t) ∧
    (∃ t, exec withHL s = .next t ∧ P s (s.busByte s.hl) t) ∧
    ∀ n, ∃ t, exec (withImm n) s = .next t ∧ P s n t

/-- A load of one register from memory: `len` bytes, `cyc` cycles, one read at `addr s`; nothing else changes but the
register, PC, the cycle count and the bus history of the read. -/
def LoadsByte (i : Instr) (len : Word) (cyc : Nat) (r : Reg8) (addr : State → Word) : Prop :=
  ∀ s : State, exec i s =
    .next { s.setReg r (s.busByte (addr s)) with
      pc := s.pc + len, cycles := s.cycles + cyc, bus := s.busAfterRead (addr s) }

/-- A store of one byte: `len` bytes, `cyc` cycles, one write of `v s` at `addr s`. EVERY other byte of memory, every
register and everything else but PC and the cycle count stays. -/
def StoresByte (i : Instr) (len : Word) (cyc : Nat) (addr : State → Word) (v : State → Byte) : Prop :=
  ∀ s : State, s.Inv → ∃ t, exec i s = .next t ∧
    t = { s with pc := s.pc + len, cycles := s.cycles + cyc, mem := t.mem, bus := t.bus } ∧
    Stores s t [(addr s, v s)]

/-- An address is plain memory on the state's platform (R52). -/
def State.plain (s : State) (a : Word) : Prop := platformOwns s.platform a = false

/-- A CB-prefixed rotate or shift: result `res v cf` and carry out `carry v`; Z from the result, N and H cleared
(R190). -/
def rotSpec (res : Byte → Bool → Byte) (carry : Byte → Bool) (v : Byte) (f : Flags) : Byte × Flags :=
  (res v f.c, { z := decide (res v f.c = 0#8), n := false, h := false, c := carry v })

/-- A byte with only bit 0 possibly set. -/
def bit0 (b : Bool) : Byte := if b then 0x01#8 else 0x00#8

/-- A byte with only bit 7 possibly set. -/
def bit7 (b : Bool) : Byte := if b then 0x80#8 else 0x00#8

/-! ## Runs -/

/-- An instruction executed `k` times. -/
def execTimes : Nat → Instr → State → Host.Outcome State Fault Refusal
  | 0, _, s => .next s
  | k + 1, i, s =>
    match exec i s with
    | .next t => execTimes k i t
    | .fault r => .fault r
    | .refused r => .refused r

/-- `k` steps of the machine. -/
def runSteps (k : Nat) (s : State) : Host.Outcome State Fault Refusal := Host.Core.run Sys2Proof.core k s

/-- No reset is asserted at any of the coming boundaries. -/
def State.neverReset (s : State) : Prop := ∀ i ∈ s.inputs, i.reset = false

/-- An instruction is executed at this boundary: the CPU runs, no reset is asserted, and no interrupt is acceptable
(R260 (6), R262). -/
def State.executesNow (s : State) : Prop :=
  s.run = .running ∧ s.boundaryInput.reset = false ∧ (s.ime = false ∨ s.boundaryInput.pending = none)

/-! ## The spec's tables -/

/-- A symbol of the flag columns (R11): unchanged, cleared, set, or computed (`+` and `X`). -/
inductive FlagColumn where
  | keep | clear | set | computed
deriving DecidableEq, Repr

/-- The four flag columns of an instruction. -/
structure FlagColumns where
  z : FlagColumn
  n : FlagColumn
  h : FlagColumn
  c : FlagColumn
deriving DecidableEq, Repr

/-- What a flag column says of a flag before and after. -/
def FlagColumn.obeyed (k : FlagColumn) (before after : Bool) : Prop :=
  match k with
  | .keep => after = before
  | .clear => after = false
  | .set => after = true
  | .computed => True

/-- The flag columns of every instruction (R35 and the `flags` key of the opcode table; POP AF by C3). -/
def flagColumns : Instr → FlagColumns
  | .ldRR _ _ => ⟨.keep, .keep, .keep, .keep⟩
  | .ldHLR _ => ⟨.keep, .keep, .keep, .keep⟩
  | .ldRHL _ => ⟨.keep, .keep, .keep, .keep⟩
  | .ldRN _ _ => ⟨.keep, .keep, .keep, .keep⟩
  | .ldHLN _ => ⟨.keep, .keep, .keep, .keep⟩
  | .ldBCA => ⟨.keep, .keep, .keep, .keep⟩
  | .ldABC => ⟨.keep, .keep, .keep, .keep⟩
  | .ldDEA => ⟨.keep, .keep, .keep, .keep⟩
  | .ldADE => ⟨.keep, .keep, .keep, .keep⟩
  | .ldHLIA => ⟨.keep, .keep, .keep, .keep⟩
  | .ldAHLI => ⟨.keep, .keep, .keep, .keep⟩
  | .ldHLDA => ⟨.keep, .keep, .keep, .keep⟩
  | .ldAHLD => ⟨.keep, .keep, .keep, .keep⟩
  | .ldNNA _ => ⟨.keep, .keep, .keep, .keep⟩
  | .ldANN _ => ⟨.keep, .keep, .keep, .keep⟩
  | .ldNA _ => ⟨.keep, .keep, .keep, .keep⟩
  | .ldAN _ => ⟨.keep, .keep, .keep, .keep⟩
  | .ldCA => ⟨.keep, .keep, .keep, .keep⟩
  | .ldAC => ⟨.keep, .keep, .keep, .keep⟩
  | .ldPpNN _ _ => ⟨.keep, .keep, .keep, .keep⟩
  | .ldNNSP _ => ⟨.keep, .keep, .keep, .keep⟩
  | .ldSPHL => ⟨.keep, .keep, .keep, .keep⟩
  | .popQq .af => ⟨.computed, .computed, .computed, .computed⟩
  | .popQq _ => ⟨.keep, .keep, .keep, .keep⟩
  | .pushQq _ => ⟨.keep, .keep, .keep, .keep⟩
  | .incPp _ => ⟨.keep, .keep, .keep, .keep⟩
  | .decPp _ => ⟨.keep, .keep, .keep, .keep⟩
  | .addHLPp _ => ⟨.keep, .clear, .computed, .computed⟩
  | .addSPE _ => ⟨.clear, .clear, .computed, .computed⟩
  | .ldhlSPE _ => ⟨.clear, .clear, .computed, .computed⟩
  | .incR _ => ⟨.computed, .clear, .computed, .keep⟩
  | .incHL => ⟨.computed, .clear, .computed, .keep⟩
  | .decR _ => ⟨.computed, .set, .computed, .keep⟩
  | .decHL => ⟨.computed, .set, .computed, .keep⟩
  | .addAR _ => ⟨.computed, .clear, .computed, .computed⟩
  | .addAHL => ⟨.computed, .clear, .computed, .computed⟩
  | .addAN _ => ⟨.computed, .clear, .computed, .computed⟩
  | .adcAR _ => ⟨.computed, .clear, .computed, .computed⟩
  | .adcAHL => ⟨.computed, .clear, .computed, .computed⟩
  | .adcAN _ => ⟨.computed, .clear, .computed, .computed⟩
  | .subR _ => ⟨.computed, .set, .computed, .computed⟩
  | .subHL => ⟨.computed, .set, .computed, .computed⟩
  | .subN _ => ⟨.computed, .set, .computed, .computed⟩
  | .sbcAR _ => ⟨.computed, .set, .computed, .computed⟩
  | .sbcAHL => ⟨.computed, .set, .computed, .computed⟩
  | .sbcAN _ => ⟨.computed, .set, .computed, .computed⟩
  | .cpR _ => ⟨.computed, .set, .computed, .computed⟩
  | .cpHL => ⟨.computed, .set, .computed, .computed⟩
  | .cpN _ => ⟨.computed, .set, .computed, .computed⟩
  | .andR _ => ⟨.computed, .clear, .set, .clear⟩
  | .andHL => ⟨.computed, .clear, .set, .clear⟩
  | .andN _ => ⟨.computed, .clear, .set, .clear⟩
  | .xorR _ => ⟨.computed, .clear, .clear, .clear⟩
  | .xorHL => ⟨.computed, .clear, .clear, .clear⟩
  | .xorN _ => ⟨.computed, .clear, .clear, .clear⟩
  | .orR _ => ⟨.computed, .clear, .clear, .clear⟩
  | .orHL => ⟨.computed, .clear, .clear, .clear⟩
  | .orN _ => ⟨.computed, .clear, .clear, .clear⟩
  | .daa => ⟨.computed, .keep, .clear, .computed⟩
  | .rlca => ⟨.clear, .clear, .clear, .computed⟩
  | .rrca => ⟨.clear, .clear, .clear, .computed⟩
  | .rla => ⟨.clear, .clear, .clear, .computed⟩
  | .rra => ⟨.clear, .clear, .clear, .computed⟩
  | .rlR _ => ⟨.computed, .clear, .clear, .computed⟩
  | .rlHL => ⟨.computed, .clear, .clear, .computed⟩
  | .rlcR _ => ⟨.computed, .clear, .clear, .computed⟩
  | .rlcHL => ⟨.computed, .clear, .clear, .computed⟩
  | .rrR _ => ⟨.computed, .clear, .clear, .computed⟩
  | .rrHL => ⟨.computed, .clear, .clear, .computed⟩
  | .rrcR _ => ⟨.computed, .clear, .clear, .computed⟩
  | .rrcHL => ⟨.computed, .clear, .clear, .computed⟩
  | .slaR _ => ⟨.computed, .clear, .clear, .computed⟩
  | .slaHL => ⟨.computed, .clear, .clear, .computed⟩
  | .sraR _ => ⟨.computed, .clear, .clear, .computed⟩
  | .sraHL => ⟨.computed, .clear, .clear, .computed⟩
  | .srlR _ => ⟨.computed, .clear, .clear, .computed⟩
  | .srlHL => ⟨.computed, .clear, .clear, .computed⟩
  | .swapR _ => ⟨.computed, .clear, .clear, .clear⟩
  | .swapHL => ⟨.computed, .clear, .clear, .clear⟩
  | .bitR _ _ => ⟨.computed, .clear, .set, .keep⟩
  | .bitHL _ => ⟨.computed, .clear, .set, .keep⟩
  | .resR _ _ => ⟨.keep, .keep, .keep, .keep⟩
  | .resHL _ => ⟨.keep, .keep, .keep, .keep⟩
  | .setR _ _ => ⟨.keep, .keep, .keep, .keep⟩
  | .setHL _ => ⟨.keep, .keep, .keep, .keep⟩
  | .cpl => ⟨.keep, .set, .set, .keep⟩
  | .rst _ => ⟨.keep, .keep, .keep, .keep⟩
  | .callNN _ => ⟨.keep, .keep, .keep, .keep⟩
  | .callCcNN _ _ => ⟨.keep, .keep, .keep, .keep⟩
  | .jpNN _ => ⟨.keep, .keep, .keep, .keep⟩
  | .jpHL => ⟨.keep, .keep, .keep, .keep⟩
  | .jpCcNN _ _ => ⟨.keep, .keep, .keep, .keep⟩
  | .jrE _ => ⟨.keep, .keep, .keep, .keep⟩
  | .jrCcE _ _ => ⟨.keep, .keep, .keep, .keep⟩
  | .ret => ⟨.keep, .keep, .keep, .keep⟩
  | .retCc _ => ⟨.keep, .keep, .keep, .keep⟩
  | .reti => ⟨.keep, .keep, .keep, .keep⟩
  | .di => ⟨.keep, .keep, .keep, .keep⟩
  | .ei => ⟨.keep, .keep, .keep, .keep⟩
  | .halt => ⟨.keep, .keep, .keep, .keep⟩
  | .stop _ => ⟨.keep, .keep, .keep, .keep⟩
  | .nop => ⟨.keep, .keep, .keep, .keep⟩
  | .scf => ⟨.keep, .clear, .clear, .set⟩
  | .ccf => ⟨.keep, .clear, .computed, .computed⟩
  | .cbPrefix => ⟨.computed, .computed, .computed, .computed⟩
  | .unusedD3 => ⟨.keep, .keep, .keep, .keep⟩
  | .unusedDB => ⟨.keep, .keep, .keep, .keep⟩
  | .unusedDD => ⟨.keep, .keep, .keep, .keep⟩
  | .unusedE3 => ⟨.keep, .keep, .keep, .keep⟩
  | .unusedE4 => ⟨.keep, .keep, .keep, .keep⟩
  | .unusedEB => ⟨.keep, .keep, .keep, .keep⟩
  | .unusedEC => ⟨.keep, .keep, .keep, .keep⟩
  | .unusedED => ⟨.keep, .keep, .keep, .keep⟩
  | .unusedF4 => ⟨.keep, .keep, .keep, .keep⟩
  | .unusedFC => ⟨.keep, .keep, .keep, .keep⟩
  | .unusedFD => ⟨.keep, .keep, .keep, .keep⟩

/-- The cycle counts of every instruction (R308 and the `cycles` key of the opcode table): for the transfer taken and
not taken. An unused opcode has none given and counts 0 (log 16); the CB prefix counts what its cell does. -/
def cycleCounts : Instr → Option (Nat × Nat)
  | .ldRR _ _ => some (1, 1)
  | .ldHLR _ => some (2, 2)
  | .ldRHL _ => some (2, 2)
  | .ldRN _ _ => some (2, 2)
  | .ldHLN _ => some (3, 3)
  | .ldBCA => some (2, 2)
  | .ldABC => some (2, 2)
  | .ldDEA => some (2, 2)
  | .ldADE => some (2, 2)
  | .ldHLIA => some (2, 2)
  | .ldAHLI => some (2, 2)
  | .ldHLDA => some (2, 2)
  | .ldAHLD => some (2, 2)
  | .ldNNA _ => some (4, 4)
  | .ldANN _ => some (4, 4)
  | .ldNA _ => some (3, 3)
  | .ldAN _ => some (3, 3)
  | .ldCA => some (2, 2)
  | .ldAC => some (2, 2)
  | .ldPpNN _ _ => some (3, 3)
  | .ldNNSP _ => some (5, 5)
  | .ldSPHL => some (2, 2)
  | .popQq _ => some (3, 3)
  | .pushQq _ => some (4, 4)
  | .incPp _ => some (2, 2)
  | .decPp _ => some (2, 2)
  | .addHLPp _ => some (2, 2)
  | .addSPE _ => some (4, 4)
  | .ldhlSPE _ => some (3, 3)
  | .incR _ => some (1, 1)
  | .incHL => some (3, 3)
  | .decR _ => some (1, 1)
  | .decHL => some (3, 3)
  | .addAR _ => some (1, 1)
  | .addAHL => some (2, 2)
  | .addAN _ => some (2, 2)
  | .adcAR _ => some (1, 1)
  | .adcAHL => some (2, 2)
  | .adcAN _ => some (2, 2)
  | .subR _ => some (1, 1)
  | .subHL => some (2, 2)
  | .subN _ => some (2, 2)
  | .sbcAR _ => some (1, 1)
  | .sbcAHL => some (2, 2)
  | .sbcAN _ => some (2, 2)
  | .cpR _ => some (1, 1)
  | .cpHL => some (2, 2)
  | .cpN _ => some (2, 2)
  | .andR _ => some (1, 1)
  | .andHL => some (2, 2)
  | .andN _ => some (2, 2)
  | .xorR _ => some (1, 1)
  | .xorHL => some (2, 2)
  | .xorN _ => some (2, 2)
  | .orR _ => some (1, 1)
  | .orHL => some (2, 2)
  | .orN _ => some (2, 2)
  | .daa => some (1, 1)
  | .rlca => some (1, 1)
  | .rrca => some (1, 1)
  | .rla => some (1, 1)
  | .rra => some (1, 1)
  | .rlR _ => some (2, 2)
  | .rlHL => some (4, 4)
  | .rlcR _ => some (2, 2)
  | .rlcHL => some (4, 4)
  | .rrR _ => some (2, 2)
  | .rrHL => some (4, 4)
  | .rrcR _ => some (2, 2)
  | .rrcHL => some (4, 4)
  | .slaR _ => some (2, 2)
  | .slaHL => some (4, 4)
  | .sraR _ => some (2, 2)
  | .sraHL => some (4, 4)
  | .srlR _ => some (2, 2)
  | .srlHL => some (4, 4)
  | .swapR _ => some (2, 2)
  | .swapHL => some (4, 4)
  | .bitR _ _ => some (2, 2)
  | .bitHL _ => some (3, 3)
  | .resR _ _ => some (2, 2)
  | .resHL _ => some (4, 4)
  | .setR _ _ => some (2, 2)
  | .setHL _ => some (4, 4)
  | .cpl => some (1, 1)
  | .rst _ => some (4, 4)
  | .callNN _ => some (6, 6)
  | .callCcNN _ _ => some (6, 3)
  | .jpNN _ => some (4, 4)
  | .jpHL => some (1, 1)
  | .jpCcNN _ _ => some (4, 3)
  | .jrE _ => some (3, 3)
  | .jrCcE _ _ => some (3, 2)
  | .ret => some (4, 4)
  | .retCc _ => some (5, 2)
  | .reti => some (4, 4)
  | .di => some (1, 1)
  | .ei => some (1, 1)
  | .halt => some (1, 1)
  | .stop _ => some (1, 1)
  | .nop => some (1, 1)
  | .scf => some (1, 1)
  | .ccf => some (1, 1)
  | .unusedD3 => some (0, 0)
  | .unusedDB => some (0, 0)
  | .unusedDD => some (0, 0)
  | .unusedE3 => some (0, 0)
  | .unusedE4 => some (0, 0)
  | .unusedEB => some (0, 0)
  | .unusedEC => some (0, 0)
  | .unusedED => some (0, 0)
  | .unusedF4 => some (0, 0)
  | .unusedFC => some (0, 0)
  | .unusedFD => some (0, 0)
  | .cbPrefix => none

/-- Whether a control transfer is taken: a conditional form by its condition (R242 (f)), any other instruction
counts as taken. -/
def transferTaken (i : Instr) (s : State) : Bool :=
  match i with
  | .callCcNN cc _ => s.cond cc
  | .jpCcNN cc _ => s.cond cc
  | .jrCcE cc _ => s.cond cc
  | .retCc cc => s.cond cc
  | _ => true

/-- The eleven unused opcodes as instructions (R86). -/
def unusedInstrs : List Instr :=
  [.unusedD3, .unusedDB, .unusedDD, .unusedE3, .unusedE4, .unusedEB, .unusedEC, .unusedED, .unusedF4, .unusedFC, .unusedFD]

/-- The instructions that write SP (R27). -/
def writesSP : Instr → Bool
  | .ldPpNN .sp _ => true
  | .ldSPHL => true
  | .incPp .sp => true
  | .decPp .sp => true
  | .addSPE _ => true
  | .popQq _ => true
  | .pushQq _ => true
  | .rst _ => true
  | .callNN _ => true
  | .callCcNN _ _ => true
  | .ret => true
  | .retCc _ => true
  | .reti => true
  | _ => false

/-- The instructions that may store to memory (R53). -/
def mayStore : Instr → Bool
  | .ldHLR _ => true
  | .ldHLN _ => true
  | .ldBCA => true
  | .ldDEA => true
  | .ldHLIA => true
  | .ldHLDA => true
  | .ldNNA _ => true
  | .ldNA _ => true
  | .ldCA => true
  | .ldNNSP _ => true
  | .pushQq _ => true
  | .incHL => true
  | .decHL => true
  | .rlHL => true
  | .rlcHL => true
  | .rrHL => true
  | .rrcHL => true
  | .slaHL => true
  | .sraHL => true
  | .srlHL => true
  | .swapHL => true
  | .resHL _ => true
  | .setHL _ => true
  | .rst _ => true
  | .callNN _ => true
  | .callCcNN _ _ => true
  | .cbPrefix => true
  | _ => false

/-- The instructions whose effect beyond the flags depends on a flag (R36), and the CB prefix, whose cell may be one
of them. -/
def readsFlags : Instr → Bool
  | .adcAR _ => true
  | .adcAHL => true
  | .adcAN _ => true
  | .sbcAR _ => true
  | .sbcAHL => true
  | .sbcAN _ => true
  | .rla => true
  | .rra => true
  | .rlR _ => true
  | .rlHL => true
  | .rrR _ => true
  | .rrHL => true
  | .daa => true
  | .ccf => true
  | .callCcNN _ _ => true
  | .jpCcNN _ _ => true
  | .jrCcE _ _ => true
  | .retCc _ => true
  | .pushQq .af => true
  | .cbPrefix => true
  | _ => false

/-! ## Packed BCD (R180) -/

/-- A byte whose two digits are 0 to 9. -/
def bcdValid (v : Byte) : Bool := decide (v.toNat % 16 ≤ 9) && decide (v.toNat / 16 ≤ 9)

/-- The number a packed-BCD byte stands for. -/
def bcdValue (v : Byte) : Nat := v.toNat / 16 * 10 + v.toNat % 16

/-- For `AluLaw`: where A and the operand byte were packed BCD, DAA after the operation gives packed BCD, and `P` holds of A,
the operand byte and the carry before, and of A and the carry after DAA. -/
def ThenDaa (P : Byte → Byte → Bool → Byte → Bool → Prop) (s : State) (x : Byte) (t : State) : Prop :=
  bcdValid s.a = true → bcdValid x = true → ∃ u, exec .daa t = .next u ∧ bcdValid u.a = true ∧ P s.a x s.f.c u.a u.f.c

end Sys2Proof.Machine
end

