-- ==== Sys2Proof/Certificates/Slice0/Obligations.lean ====
section
/-! DEFINITION. The statements for the provers, one `Obligations.<Name>` each, listed in OBLIGATIONS.json. -/

section Statements

open Sys2Proof Sys2Proof.Machine

/-! ## Reset -/

/-- After reset the run state is Running and the registers hold the RESET_* values of the platform instance; in
`State.reset` these are all zero, memory lists nothing and there is no environment input. The values are the model's choice
(DESIGN CHOICE, logs 1 to 4; R34 gives none). -/
def Obligations.ResetState : Prop :=
  (∀ p : Platform, (State.afterReset p).run = .running) ∧
  State.reset = {
    a := 0#8, f := ⟨false, false, false, false⟩, b := 0#8, c := 0#8, d := 0#8, e := 0#8, h := 0#8, l := 0#8, sp := 0#16, pc := 0#16,
    ime := false, run := .running, mem := ⟨[]⟩, bus := [], inputs := [], cycles := 0, platform := Platform.initial } ∧
  ∀ x, State.reset.mem.read x = 0#8

/-- Memory is in its canonical form right after reset. -/
def Obligations.InvAtReset : Prop := State.reset.Inv

/-- A boundary at which reset is asserted (R300 by decision D30, log 25): whatever the run state, every register, flag, ime, SP
and PC take the RESET_* values, the CPU runs, and memory is untouched. -/
def Obligations.ResetEventStep : Prop :=
  ∀ s : State, s.boundaryInput.reset = true →
    step s = .next { s with
      a := s.platform.resetValues.a, f := s.platform.resetValues.f, b := s.platform.resetValues.b, c := s.platform.resetValues.c
      d := s.platform.resetValues.d, e := s.platform.resetValues.e, h := s.platform.resetValues.h, l := s.platform.resetValues.l
      sp := s.platform.resetValues.sp, pc := s.platform.resetValues.pc, ime := s.platform.resetValues.ime
      run := .running, inputs := s.inputs.tail }

/-! ## Registers, flags and memory -/

/-- The register table R8 (R22): the code of each register, code 110 naming none, and reads after writes. -/
def Obligations.RegisterTable : Prop :=
  (∀ c : BitVec 3, regOfCode c =
    if c = 0b110#3 then none
    else [Reg8.b, .c, .d, .e, .h, .l, .b, .a][c.toNat]?) ∧
  (∀ r : Reg8, regOfCode r.code = some r) ∧
  (∀ s : State, (s.reg .b, s.reg .c, s.reg .d, s.reg .e, s.reg .h, s.reg .l, s.reg .a) = (s.b, s.c, s.d, s.e, s.h, s.l, s.a)) ∧
  ∀ (s : State) (r q : Reg8) (v : Byte),
    (s.setReg r v).reg q = (if q = r then v else s.reg q) ∧
    s.setReg r v = { s with
      a := (s.setReg r v).a, b := (s.setReg r v).b, c := (s.setReg r v).c, d := (s.setReg r v).d
      e := (s.setReg r v).e, h := (s.setReg r v).h, l := (s.setReg r v).l }

/-- The pair tables PP and QQ (R23, R24) and the pairs as concatenations of two registers, the first-named the high half
(R21; decision D11, log 13): what a pair reads as; that a write of it changes its two registers and nothing else, every flag, every
other register and all other state staying; for AF the flags are bits 7..4 and bits 3..0 are dropped (decisions D23 and D41, log 23). -/
def Obligations.PairTables : Prop :=
  (∀ c : BitVec 2, some (pairPOfCode c) = [PairP.bc, .de, .hl, .sp][c.toNat]? ∧ some (pairQOfCode c) = [PairQ.bc, .de, .hl, .af][c.toNat]?) ∧
  (∀ p : PairP, pairPOfCode p.code = p) ∧ (∀ q : PairQ, pairQOfCode q.code = q) ∧
  (∀ s : State, s.pairP .bc = s.b ++ s.c ∧ s.pairP .de = s.d ++ s.e ∧ s.pairP .hl = s.h ++ s.l ∧ s.pairP .sp = s.sp ∧
    s.pairQ .bc = s.b ++ s.c ∧ s.pairQ .de = s.d ++ s.e ∧ s.pairQ .hl = s.h ++ s.l ∧ s.pairQ .af = s.a ++ s.f.toByte) ∧
  (∀ (s : State) (p : PairP) (v : Word), (s.setPairP p v).pairP p = v ∧ ∀ p', p' ≠ p → (s.setPairP p v).pairP p' = s.pairP p') ∧
  (∀ (s : State) (q : PairQ) (v : Word),
    (s.setPairQ q v).pairQ q = (if q = .af then v &&& 0xFFF0#16 else v) ∧ ∀ q', q' ≠ q → (s.setPairQ q v).pairQ q' = s.pairQ q') ∧
  ∀ (s : State) (v : Word),
    s.setPairP .bc v = { s with b := (v >>> 8).setWidth 8, c := v.setWidth 8 } ∧
    s.setPairP .de v = { s with d := (v >>> 8).setWidth 8, e := v.setWidth 8 } ∧
    s.setPairP .hl v = { s with h := (v >>> 8).setWidth 8, l := v.setWidth 8 } ∧
    s.setPairP .sp v = { s with sp := v } ∧
    s.setPairQ .bc v = { s with b := (v >>> 8).setWidth 8, c := v.setWidth 8 } ∧
    s.setPairQ .de v = { s with d := (v >>> 8).setWidth 8, e := v.setWidth 8 } ∧
    s.setPairQ .hl v = { s with h := (v >>> 8).setWidth 8, l := v.setWidth 8 } ∧
    s.setPairQ .af v = { s with
      a := (v >>> 8).setWidth 8, f := ⟨v.getLsbD 7, v.getLsbD 6, v.getLsbD 5, v.getLsbD 4⟩ } ∧
    s.setHL v = { s with h := (v >>> 8).setWidth 8, l := v.setWidth 8 }

/-- The layout of F (R25): bit 7 ZF, bit 6 NF, bit 5 HF, bit 4 CF, bits 3..0 always 0. -/
def Obligations.FlagByteLayout : Prop :=
  ∀ (f : Flags) (i : Nat), f.toByte.getLsbD i =
    (if i = 7 then f.z else if i = 6 then f.n else if i = 5 then f.h else if i = 4 then f.c else false)

/-- What a write of F from a byte keeps (R26; decisions D23 and D41, log 23), and the meaning of the conditions (R37; decision
D8, log 13). -/
def Obligations.FlagWriteAndConditions : Prop :=
  (∀ v : Byte, (Flags.ofByte v).toByte = v &&& 0xF0#8) ∧
  (∀ f : Flags, Flags.ofByte f.toByte = f) ∧
  (∀ c : BitVec 2, some (condOfCode c) = [Cond.nz, .z, .nc, .c][c.toNat]?) ∧
  ∀ s : State,
    (s.cond .nz = true ↔ s.f.z = false) ∧ (s.cond .z = true ↔ s.f.z = true) ∧
    (s.cond .nc = true ↔ s.f.c = false) ∧ (s.cond .c = true ↔ s.f.c = true)

/-- Memory as a store of bytes (R52; decisions D17 and D35, log 3): plain memory reads back the byte written and keeps every
other byte; a write elsewhere changes no plain memory and is told to the bus. -/
def Obligations.MemoryReadAfterWrite : Prop :=
  ∀ (s : State) (a : Word) (v : Byte), s.Inv →
    s.memWrite a v = { s with mem := (s.memWrite a v).mem, bus := (s.memWrite a v).bus } ∧
    (s.plain a →
      (s.memWrite a v).busByte a = v ∧ (s.memWrite a v).bus = s.bus ∧ ∀ x, x ≠ a → (s.memWrite a v).busByte x = s.busByte x) ∧
    (platformOwns s.platform a = true →
      (s.memWrite a v).mem = s.mem ∧ (s.memWrite a v).bus = .write a v :: s.bus)

/-! ## Encoding -/

/-- Decoding an encoded well-formed instruction gives it back and leaves the bytes after it; the lone prefix byte decodes to
the prefix row (log 17). -/
def Obligations.DecodeOfEncode : Prop :=
  (∀ (i : Instr) (rest : List Byte), i.wellFormed = true → i ≠ .cbPrefix → decode (encode i ++ rest) = .ok (i, rest)) ∧
  decode (encode .cbPrefix) = .ok (.cbPrefix, [])

/-- Every first byte with any bytes after it is the encoding of what it decodes to: no two instructions share a word and no
word is without one (R80, R95). -/
def Obligations.EncodeOfDecode : Prop :=
  ∀ op n m : Byte,
    encode (decodeOp op n m) = [op, n, m].take (instrLength op) ∧ (decodeOp op n m).wellFormed = true

/-- The length of an instruction from its first byte (R93): the 17 three-byte and 27 two-byte opcodes; all others one byte. -/
def Obligations.InstructionLengths : Prop :=
  ∀ op : Byte,
    (instrLength op = 3 ↔ op ∈ [0x01#8, 0x08, 0x11, 0x21, 0x31, 0xC2, 0xC3, 0xC4, 0xCA, 0xCC, 0xCD, 0xD2, 0xD4, 0xDA, 0xDC, 0xEA, 0xFA]) ∧
    (instrLength op = 2 ↔ op ∈ [0x06#8, 0x0E, 0x16, 0x1E, 0x26, 0x2E, 0x36, 0x3E, 0xC6, 0xCE, 0xD6, 0xDE, 0xE6, 0xEE, 0xF6, 0xFE,
      0xE0, 0xF0, 0x18, 0x20, 0x28, 0x30, 0x38, 0xE8, 0xF8, 0x10, 0xCB]) ∧
    (instrLength op = 1 ∨ instrLength op = 2 ∨ instrLength op = 3)

/-- The eleven unused opcodes (R86): they, and no other first byte or CB second byte, select no instruction, and they are one byte
long. What executing one does is R270 by decision D20 and not R86: the CPU locks up with PC past the byte and nothing else
changed (DEDUCED), and it counts 0 cycles (the model's DESIGN CHOICE), both log 16. -/
def Obligations.UnusedOpcodes : Prop :=
  (∀ op n m : Byte, decodeOp op n m ∈ unusedInstrs ↔
    op ∈ [0xD3#8, 0xDB, 0xDD, 0xE3, 0xE4, 0xEB, 0xEC, 0xED, 0xF4, 0xFC, 0xFD]) ∧
  (∀ n : Byte, decodeCb n ∉ unusedInstrs) ∧
  (∀ i ∈ unusedInstrs, (encode i).length = 1) ∧
  ∀ i ∈ unusedInstrs, ∀ s : State, exec i s = .next { s with pc := s.pc + 1, run := .locked }

/-- A 16-bit immediate is stored low byte first (R54): in the encoding, and in what the fetch of an instruction at PC assembles
from the bytes read at PC + 2 and PC + 1. -/
def Obligations.ImmediateLowByteFirst : Prop :=
  (∀ (p : PairP) (cc : Cond) (nn : Word),
    ∀ i ∈ [Instr.ldPpNN p nn, .ldNNSP nn, .ldNNA nn, .ldANN nn, .jpNN nn, .jpCcNN cc nn, .callNN nn, .callCcNN cc nn],
      (encode i).tail = [nn.setWidth 8, (nn >>> 8).setWidth 8]) ∧
  ∀ (s : State) (p : PairP) (cc : Cond) (nn : Word),
    s.fetch.1 ∈ [Instr.ldPpNN p nn, .ldNNSP nn, .ldNNA nn, .ldANN nn, .jpNN nn, .jpCcNN cc nn, .callNN nn, .callCcNN cc nn] →
    nn = ((s.afterRead s.pc).afterRead (s.pc + 1)).busByte (s.pc + 2) ++ (s.afterRead s.pc).busByte (s.pc + 1)

/-- Words written out from the patterns of the instruction rules decode to the instruction they stand for, one or more of each
group (R88, R89). -/
def Obligations.DecodedWords : Prop :=
  decode [0b01000001#8] = .ok (.ldRR .b .c, []) ∧
  decode [0b01110100#8] = .ok (.ldHLR .h, []) ∧
  decode [0b00100001#8, 0x34#8, 0x12#8] = .ok (.ldPpNN .hl 0x1234#16, []) ∧
  decode [0b11110001#8] = .ok (.popQq .af, []) ∧
  decode [0b00111001#8] = .ok (.addHLPp .sp, []) ∧
  decode [0b10001011#8] = .ok (.adcAR .e, []) ∧
  decode [0b11111110#8, 0x3C#8] = .ok (.cpN 0x3C#8, []) ∧
  decode [0xCB#8, 0b00010101#8] = .ok (.rlR .l, []) ∧
  decode [0xCB#8, 0b10011110#8] = .ok (.resHL 0b011#3, []) ∧
  decode [0b11101111#8] = .ok (.rst 0x0028#16, []) ∧
  decode [0b00100000#8, 0xFA#8] = .ok (.jrCcE .nz 0xFA#8, []) ∧
  decode [0b01110110#8] = .ok (.halt, []) ∧
  decode [0b11011101#8] = .ok (.unusedDD, [])

/-! ## The step -/

/-- A step runs the decoded instruction (R95, R260 (6); log 20): where an instruction is executed at this boundary and the bytes
at PC, in plain memory, decode to `i`, the step is `exec i` of the state, the boundary's answer used up. -/
def Obligations.StepRunsDecoded : Prop :=
  ∀ (s : State) (i : Instr) (rest : List Byte),
    s.executesNow →
    (∀ k, k < instrLength (s.mem.read s.pc) → s.plain (s.pc + BitVec.ofNat 16 k)) →
    decode [s.mem.read s.pc, s.mem.read (s.pc + 1), s.mem.read (s.pc + 2)] = .ok (i, rest) →
    i.wellFormed = true ∧ step s = exec i { s with inputs := s.inputs.tail }

/-- The fetch (R95; decisions D9 and D16, log 22): it reads as many bytes as the first one asks for, in ascending address order,
each once, and no further byte; reads of addresses that are not plain memory are told to the bus. -/
def Obligations.FetchReadsExactly : Prop :=
  ∀ (s : State) (op n m : Byte),
    op = s.busByte s.pc → n = (s.afterRead s.pc).busByte (s.pc + 1) →
    m = ((s.afterRead s.pc).afterRead (s.pc + 1)).busByte (s.pc + 2) →
    (instrLength op = 1 → s.fetch = (decodeOp op 0 0, s.afterRead s.pc)) ∧
    (instrLength op = 2 → s.fetch = (decodeOp op n 0, (s.afterRead s.pc).afterRead (s.pc + 1))) ∧
    (instrLength op = 3 → s.fetch = (decodeOp op n m, ((s.afterRead s.pc).afterRead (s.pc + 1)).afterRead (s.pc + 2)))

/-- The prefix byte CBh as a row of the table (R85; log 17): executing it reads the second byte and does what the instruction of
that cell does, as one instruction. -/
def Obligations.CbPrefixRunsItsCell : Prop :=
  ∀ s : State,
    exec .cbPrefix s = exec (decodeCb (s.busByte (s.pc + 1))) (s.afterRead (s.pc + 1)) ∧ ∃ t, exec .cbPrefix s = .next t

/-! ## Load group -/

/-- `LD r,s` (R111) and `LD r,n` (R114): the encoding, and the one register written. -/
def Obligations.RegisterLoads : Prop :=
  (∀ r q : Reg8, encode (.ldRR r q) = [0b01#2 ++ r.code ++ q.code]) ∧
  (∀ (r : Reg8) (n : Byte), encode (.ldRN r n) = [0b00#2 ++ r.code ++ 0b110#3, n]) ∧
  (∀ (r q : Reg8) (s : State), exec (.ldRR r q) s = .next { s.setReg r (s.reg q) with pc := s.pc + 1, cycles := s.cycles + 1 }) ∧
  (∀ (r : Reg8) (s : State), exec (.ldRR r r) s = .next { s with pc := s.pc + 1, cycles := s.cycles + 1 }) ∧
  ∀ (r : Reg8) (n : Byte) (s : State), exec (.ldRN r n) s = .next { s.setReg r n with pc := s.pc + 2, cycles := s.cycles + 2 }

/-- The loads of a register from memory (R113, R117, R119, R125, R127, R129) and those that move HL afterwards (R121, R123): the
encoding, the address read, the register written. -/
def Obligations.LoadsFromMemory : Prop :=
  (∀ r : Reg8, encode (.ldRHL r) = [0b01#2 ++ r.code ++ 0b110#3] ∧ LoadsByte (.ldRHL r) 1 2 r (fun s => s.h ++ s.l)) ∧
  (encode .ldABC = [0b00001010#8] ∧ LoadsByte .ldABC 1 2 .a (fun s => s.b ++ s.c)) ∧
  (encode .ldADE = [0b00011010#8] ∧ LoadsByte .ldADE 1 2 .a (fun s => s.d ++ s.e)) ∧
  (∀ nn : Word, encode (.ldANN nn) = [0b11111010#8, nn.setWidth 8, (nn >>> 8).setWidth 8] ∧ LoadsByte (.ldANN nn) 3 4 .a (fun _ => nn)) ∧
  (∀ n : Byte, encode (.ldAN n) = [0b11110000#8, n] ∧ LoadsByte (.ldAN n) 2 3 .a (fun _ => 0xFF#8 ++ n)) ∧
  (encode .ldAC = [0b11110010#8] ∧ LoadsByte .ldAC 1 2 .a (fun s => 0xFF#8 ++ s.c)) ∧
  encode .ldAHLI = [0b00101010#8] ∧ encode .ldAHLD = [0b00111010#8] ∧
  ∀ s : State,
    exec .ldAHLI s = .next { s.setHL (s.hl + 1) with
      a := s.busByte s.hl, pc := s.pc + 1, cycles := s.cycles + 2, bus := s.busAfterRead s.hl } ∧
    exec .ldAHLD s = .next { s.setHL (s.hl - 1) with
      a := s.busByte s.hl, pc := s.pc + 1, cycles := s.cycles + 2, bus := s.busAfterRead s.hl }

/-- The stores of one byte (R112, R115, R116, R118, R124, R126, R128) and those that move HL afterwards (R120, R122): the
encoding, the address and byte stored, and that every other byte of memory and every register stays. -/
def Obligations.OneByteStores : Prop :=
  (∀ q : Reg8, encode (.ldHLR q) = [0b01110#5 ++ q.code] ∧ StoresByte (.ldHLR q) 1 2 (fun s => s.h ++ s.l) (fun s => s.reg q)) ∧
  (∀ n : Byte, encode (.ldHLN n) = [0b00110110#8, n] ∧ StoresByte (.ldHLN n) 2 3 (fun s => s.h ++ s.l) (fun _ => n)) ∧
  (encode .ldBCA = [0b00000010#8] ∧ StoresByte .ldBCA 1 2 (fun s => s.b ++ s.c) State.a) ∧
  (encode .ldDEA = [0b00010010#8] ∧ StoresByte .ldDEA 1 2 (fun s => s.d ++ s.e) State.a) ∧
  (∀ nn : Word, encode (.ldNNA nn) = [0b11101010#8, nn.setWidth 8, (nn >>> 8).setWidth 8] ∧
    StoresByte (.ldNNA nn) 3 4 (fun _ => nn) State.a) ∧
  (∀ n : Byte, encode (.ldNA n) = [0b11100000#8, n] ∧ StoresByte (.ldNA n) 2 3 (fun _ => 0xFF#8 ++ n) State.a) ∧
  (encode .ldCA = [0b11100010#8] ∧ StoresByte .ldCA 1 2 (fun s => 0xFF#8 ++ s.c) State.a) ∧
  encode .ldHLIA = [0b00100010#8] ∧ encode .ldHLDA = [0b00110010#8] ∧
  ∀ s : State, s.Inv →
    (∃ t, exec .ldHLIA s = .next t ∧
      t = { s.setHL (s.hl + 1) with pc := s.pc + 1, cycles := s.cycles + 2, mem := t.mem, bus := t.bus } ∧ Stores s t [(s.hl, s.a)]) ∧
    (∃ t, exec .ldHLDA s = .next t ∧
      t = { s.setHL (s.hl - 1) with pc := s.pc + 1, cycles := s.cycles + 2, mem := t.mem, bus := t.bus } ∧ Stores s t [(s.hl, s.a)])

/-- `LD pp,nn` (R130) and `LD SP,HL` (R132): the encoding, and the one pair written, a pair's high register from the high byte. -/
def Obligations.WordLoads : Prop :=
  (∀ (p : PairP) (nn : Word), encode (.ldPpNN p nn) = [0b00#2 ++ p.code ++ 0b0001#4, nn.setWidth 8, (nn >>> 8).setWidth 8]) ∧
  encode .ldSPHL = [0b11111001#8] ∧
  (∀ (hi lo : Byte) (s : State),
    exec (.ldPpNN .bc (hi ++ lo)) s = .next { s with b := hi, c := lo, pc := s.pc + 3, cycles := s.cycles + 3 } ∧
    exec (.ldPpNN .de (hi ++ lo)) s = .next { s with d := hi, e := lo, pc := s.pc + 3, cycles := s.cycles + 3 } ∧
    exec (.ldPpNN .hl (hi ++ lo)) s = .next { s with h := hi, l := lo, pc := s.pc + 3, cycles := s.cycles + 3 } ∧
    exec (.ldPpNN .sp (hi ++ lo)) s = .next { s with sp := hi ++ lo, pc := s.pc + 3, cycles := s.cycles + 3 }) ∧
  ∀ s : State, exec .ldSPHL s = .next { s with sp := s.h ++ s.l, pc := s.pc + 1, cycles := s.cycles + 2 }

/-- `LD (nn),SP` (R131; its byte order is decision D13, log 14): the low byte at `nn`, then the high byte at `nn + 1`, which wraps
to 0000h; SP is not changed. -/
def Obligations.StoreStackPointer : Prop :=
  ∀ (nn : Word) (s : State), s.Inv → ∃ t, exec (.ldNNSP nn) s = .next t ∧
    t = { s with pc := s.pc + 3, cycles := s.cycles + 5, mem := t.mem, bus := t.bus } ∧
    Stores s t [(nn + 1, (s.sp >>> 8).setWidth 8), (nn, s.sp.setWidth 8)]

/-- `POP qq` (R133; the stack layout is decision D12, log 14, the flags of POP AF are C3 and D23, log 23): low byte from SP, high
byte from SP + 1. -/
def Obligations.PopLoadsPair : Prop :=
  ∀ s : State,
    exec (.popQq .bc) s = .next { s with
      b := s.stackHi, c := s.stackLo, sp := s.sp + 2, pc := s.pc + 1, cycles := s.cycles + 3, bus := s.busAfterPop } ∧
    exec (.popQq .de) s = .next { s with
      d := s.stackHi, e := s.stackLo, sp := s.sp + 2, pc := s.pc + 1, cycles := s.cycles + 3, bus := s.busAfterPop } ∧
    exec (.popQq .hl) s = .next { s with
      h := s.stackHi, l := s.stackLo, sp := s.sp + 2, pc := s.pc + 1, cycles := s.cycles + 3, bus := s.busAfterPop } ∧
    exec (.popQq .af) s = .next { s with
      a := s.stackHi
      f := ⟨s.stackLo.getLsbD 7, s.stackLo.getLsbD 6, s.stackLo.getLsbD 5, s.stackLo.getLsbD 4⟩
      sp := s.sp + 2, pc := s.pc + 1, cycles := s.cycles + 3, bus := s.busAfterPop } ∧
    (s.plain s.sp → s.stackLo = s.mem.read s.sp) ∧
    (s.plain (s.sp + 1) → s.stackHi = s.mem.read (s.sp + 1))

/-- `PUSH qq` (R134; the stack layout is decision D12, log 14): the high byte at SP - 1, then the low byte at SP - 2; for AF the
low byte is F. -/
def Obligations.PushStoresPair : Prop :=
  ∀ s : State, s.Inv → ∀ (q : PairQ) (hi lo : Byte),
    (q, hi, lo) ∈ [(PairQ.bc, s.b, s.c), (.de, s.d, s.e), (.hl, s.h, s.l), (.af, s.a, s.f.toByte)] →
    ∃ t, exec (.pushQq q) s = .next t ∧
      t = { s with sp := s.sp - 2, pc := s.pc + 1, cycles := s.cycles + 4, mem := t.mem, bus := t.bus } ∧
      Stores s t [(s.sp - 2, lo), (s.sp - 1, hi)]

/-- What is pushed comes back (R58; decisions D12 and D14, log 14), where the two bytes below SP are plain memory: PUSH then POP of
the same pair, and CALL or RST then RET, restore every register and SP and leave in memory the two stack bytes
and no other change. -/
def Obligations.StackRoundTrips : Prop :=
  ∀ s : State, s.Inv → s.plain (s.sp - 1) → s.plain (s.sp - 2) →
    (∀ q : PairQ, ∃ t u, exec (.pushQq q) s = .next t ∧ exec (.popQq q) t = .next u ∧
      u = { s with pc := s.pc + 2, cycles := s.cycles + 7, mem := u.mem } ∧
      Stores s u [(s.sp - 2, (s.pairQ q).setWidth 8), (s.sp - 1, (s.pairQ q >>> 8).setWidth 8)]) ∧
    (∀ nn : Word, ∃ t u, exec (.callNN nn) s = .next t ∧ exec .ret t = .next u ∧
      u = { s with pc := s.pc + 3, cycles := s.cycles + 10, mem := u.mem } ∧
      Stores s u [(s.sp - 2, (s.pc + 3).setWidth 8), (s.sp - 1, ((s.pc + 3) >>> 8).setWidth 8)]) ∧
    ∀ a : Word, ∃ t u, exec (.rst a) s = .next t ∧ exec .ret t = .next u ∧
      u = { s with pc := s.pc + 1, cycles := s.cycles + 8, mem := u.mem } ∧
      Stores s u [(s.sp - 2, (s.pc + 1).setWidth 8), (s.sp - 1, ((s.pc + 1) >>> 8).setWidth 8)]

/-! ## 16-bit arithmetic group -/

/-- `INC pp` (R141) and `DEC pp` (R142): the encoding, the wrapping result, no flag changed. -/
def Obligations.IncDecPairs : Prop :=
  (∀ p : PairP, encode (.incPp p) = [0b00#2 ++ p.code ++ 0b0011#4] ∧ encode (.decPp p) = [0b00#2 ++ p.code ++ 0b1011#4]) ∧
  ∀ (p : PairP) (s : State),
    exec (.incPp p) s = .next { s.setPairP p (s.pairP p + 1) with pc := s.pc + 1, cycles := s.cycles + 2 } ∧
    exec (.decPp p) s = .next { s.setPairP p (s.pairP p - 1) with pc := s.pc + 1, cycles := s.cycles + 2 }

/-- `ADD HL,pp` (R143), `ADD SP,e` (R144) and `LDHL SP,e` (R145). Their half-carries and carries are decisions D5 and D6 (log 12), the
sign of `e` decision D7 (log 13): out of bits 11 and 15 for HL; out of bits 3 and 7 of the low byte of SP plus the unsigned byte
for the other two, whose Z is cleared. -/
def Obligations.WordAdditions : Prop :=
  (∀ (p : PairP) (s : State), exec (.addHLPp p) s = .next { s.setHL (s.hl + s.pairP p) with
    f := { s.f with n := false, h := decide (s.hl.toNat % 4096 + (s.pairP p).toNat % 4096 ≥ 4096)
                    c := decide (s.hl.toNat + (s.pairP p).toNat ≥ 65536) }
    pc := s.pc + 1, cycles := s.cycles + 2 }) ∧
  ∀ (e : Byte) (s : State) (g : Flags),
    g = ⟨false, false, decide (s.sp.toNat % 16 + e.toNat % 16 ≥ 16), decide (s.sp.toNat % 256 + e.toNat ≥ 256)⟩ →
    exec (.addSPE e) s = .next { s with sp := s.sp + e.signExtend 16, f := g, pc := s.pc + 2, cycles := s.cycles + 4 } ∧
    exec (.ldhlSPE e) s = .next { s.setHL (s.sp + e.signExtend 16) with f := g, pc := s.pc + 2, cycles := s.cycles + 3 }

/-! ## 8-bit ALU group -/

/-- INC and DEC on a register and on the byte at HL (R152 to R155; the half-carries are the spec's general knowledge GK4 to GK6, log
12): the wrapping result, Z from it, H the carry out of bit 3 or the borrow from bit 4, CF unchanged. -/
def Obligations.IncDecBytes : Prop :=
  InPlaceForms .incR .incHL 1 1 3 (fun v f =>
    (v + 1, { f with z := decide (v = 0xFF#8), n := false, h := decide (v.toNat % 16 = 15) })) ∧
  InPlaceForms .decR .decHL 1 1 3 (fun v f =>
    (v - 1, { f with z := decide (v = 0x01#8), n := true, h := decide (v.toNat % 16 = 0) }))

/-- ADD and ADC on A in their three forms (R156 to R161; the carries are decision D4, log 12). -/
def Obligations.AddAndAdc : Prop :=
  AluForms .addAR .addAHL .addAN (fun a x _ =>
    (a + x, ⟨decide (a + x = 0), false, decide (a.toNat % 16 + x.toNat % 16 ≥ 16), decide (a.toNat + x.toNat ≥ 256)⟩)) ∧
  AluForms .adcAR .adcAHL .adcAN (fun a x f =>
    (a + x + bit0 f.c,
     ⟨decide (a + x + bit0 f.c = 0), false, decide (a.toNat % 16 + x.toNat % 16 + (bit0 f.c).toNat ≥ 16),
      decide (a.toNat + x.toNat + (bit0 f.c).toNat ≥ 256)⟩))

/-- SUB, SBC and CP on A in their three forms (R162 to R170; the borrows are decision D4, log 12, the sign of the carry in SBC
decision D43): CP leaves A. -/
def Obligations.SubSbcAndCp : Prop :=
  AluForms .subR .subHL .subN (fun a x _ =>
    (a - x, ⟨decide (a = x), true, decide (a.toNat % 16 < x.toNat % 16), decide (a.toNat < x.toNat)⟩)) ∧
  AluForms .sbcAR .sbcAHL .sbcAN (fun a x f =>
    (a - x - bit0 f.c,
     ⟨decide (a = x + bit0 f.c), true, decide (a.toNat % 16 < x.toNat % 16 + (bit0 f.c).toNat),
      decide (a.toNat < x.toNat + (bit0 f.c).toNat)⟩)) ∧
  AluForms .cpR .cpHL .cpN (fun a x _ =>
    (a, ⟨decide (a = x), true, decide (a.toNat % 16 < x.toNat % 16), decide (a.toNat < x.toNat)⟩))

/-- AND, XOR and OR in their three forms (R171 to R179) and CPL (R226): the encoding, A and the flags. -/
def Obligations.LogicalOperations : Prop :=
  (∀ (q : Reg8) (n : Byte),
    encode (.andR q) = [0b10100#5 ++ q.code] ∧ encode .andHL = [0b10100110#8] ∧ encode (.andN n) = [0b11100110#8, n] ∧
    encode (.xorR q) = [0b10101#5 ++ q.code] ∧ encode .xorHL = [0b10101110#8] ∧ encode (.xorN n) = [0b11101110#8, n] ∧
    encode (.orR q) = [0b10110#5 ++ q.code] ∧ encode .orHL = [0b10110110#8] ∧ encode (.orN n) = [0b11110110#8, n] ∧
    encode .cpl = [0b00101111#8]) ∧
  AluForms .andR .andHL .andN (fun a x _ => (a &&& x, ⟨decide (a &&& x = 0), false, true, false⟩)) ∧
  AluForms .xorR .xorHL .xorN (fun a x _ => (a ^^^ x, ⟨decide (a ^^^ x = 0), false, false, false⟩)) ∧
  AluForms .orR .orHL .orN (fun a x _ => (a ||| x, ⟨decide (a ||| x = 0), false, false, false⟩)) ∧
  ∀ s : State, exec .cpl s = .next { s with
    a := ~~~s.a, f := { s.f with n := true, h := true }, pc := s.pc + 1, cycles := s.cycles + 1 }

/-- The exact sums behind the 8-bit and 16-bit additions (R181; the carries are decisions D4 and D5, log 12): the carry is the digit
lost, after an addition as a carry, after a subtraction as a borrow; a comparison orders its operands. -/
def Obligations.ExactSums : Prop :=
  AluLaw .addAR .addAHL .addAN (fun s x t => t.a.toNat + 256 * t.f.c.toNat = s.a.toNat + x.toNat) ∧
  AluLaw .adcAR .adcAHL .adcAN (fun s x t => t.a.toNat + 256 * t.f.c.toNat = s.a.toNat + x.toNat + s.f.c.toNat) ∧
  AluLaw .subR .subHL .subN (fun s x t => t.a.toNat + x.toNat = s.a.toNat + 256 * t.f.c.toNat) ∧
  AluLaw .sbcAR .sbcAHL .sbcAN (fun s x t => t.a.toNat + x.toNat + s.f.c.toNat = s.a.toNat + 256 * t.f.c.toNat) ∧
  AluLaw .cpR .cpHL .cpN (fun s x t =>
    t.a = s.a ∧ (t.f.z = true ↔ s.a.toNat = x.toNat) ∧ (t.f.c = true ↔ s.a.toNat < x.toNat)) ∧
  ∀ (p : PairP) (s : State), ∃ t, exec (.addHLPp p) s = .next t ∧
    t.hl.toNat + 65536 * t.f.c.toNat = s.hl.toNat + (s.pairP p).toNat

/-- DAA (R180, the source's algorithm on 8 bits; decision D21, log 11). -/
def Obligations.DecimalAdjust : Prop :=
  ∀ (s : State) (lo hi : Bool) (t : Byte),
    (lo = true ↔ s.f.h = true ∨ s.a.toNat % 16 > 9) →
    (hi = true ↔ s.f.c = true ∨ s.a.toNat > 0x99) →
    t = (if s.f.n then s.a - (if lo then 0x06 else 0) - (if hi then 0x60 else 0)
         else s.a + (if lo then 0x06 else 0) + (if hi then 0x60 else 0)) →
    exec .daa s = .next { s with
      a := t, f := ⟨decide (t = 0), s.f.n, false, hi⟩, pc := s.pc + 1, cycles := s.cycles + 1 }

/-- DAA after an addition or subtraction of two packed-BCD bytes (R180; decisions D4 and D21, logs 11 and 12) gives the packed-BCD
result, and in C the decimal carry or borrow. -/
def Obligations.DecimalAdjustIsDecimal : Prop :=
  AluLaw .addAR .addAHL .addAN (ThenDaa fun a x _ r c => bcdValue r + 100 * c.toNat = bcdValue a + bcdValue x) ∧
  AluLaw .adcAR .adcAHL .adcAN (ThenDaa fun a x cf r c => bcdValue r + 100 * c.toNat = bcdValue a + bcdValue x + cf.toNat) ∧
  AluLaw .subR .subHL .subN (ThenDaa fun a x _ r c => bcdValue r + bcdValue x = bcdValue a + 100 * c.toNat) ∧
  AluLaw .sbcAR .sbcAHL .sbcAN (ThenDaa fun a x cf r c => bcdValue r + bcdValue x + cf.toNat = bcdValue a + 100 * c.toNat)

/-! ## ROT group -/

/-- The fast rotates of A (R191 to R194): the encoding, the bit rotated out in C, Z cleared whatever the result. -/
def Obligations.FastRotates : Prop :=
  encode .rlca = [0b00000111#8] ∧ encode .rrca = [0b00001111#8] ∧ encode .rla = [0b00010111#8] ∧ encode .rra = [0b00011111#8] ∧
  ∀ s : State,
    exec .rlca s = .next { s with
      a := s.a.rotateLeft 1, f := ⟨false, false, false, s.a.getLsbD 7⟩, pc := s.pc + 1, cycles := s.cycles + 1 } ∧
    exec .rrca s = .next { s with
      a := s.a.rotateRight 1, f := ⟨false, false, false, s.a.getLsbD 0⟩, pc := s.pc + 1, cycles := s.cycles + 1 } ∧
    exec .rla s = .next { s with
      a := s.a <<< 1 ||| bit0 s.f.c, f := ⟨false, false, false, s.a.getLsbD 7⟩, pc := s.pc + 1, cycles := s.cycles + 1 } ∧
    exec .rra s = .next { s with
      a := s.a >>> 1 ||| bit7 s.f.c, f := ⟨false, false, false, s.a.getLsbD 0⟩, pc := s.pc + 1, cycles := s.cycles + 1 }

/-- RL, RLC, RR and RRC on a register and on the byte at HL (R195 to R202): the encoding, the result, Z from it, C the bit rotated
out. -/
def Obligations.RotatesThroughCarryAndCircular : Prop :=
  (∀ q : Reg8,
    encode (.rlR q) = [0xCB#8, 0b00010#5 ++ q.code] ∧ encode .rlHL = [0xCB#8, 0b00010110#8] ∧
    encode (.rlcR q) = [0xCB#8, 0b00000#5 ++ q.code] ∧ encode .rlcHL = [0xCB#8, 0b00000110#8] ∧
    encode (.rrR q) = [0xCB#8, 0b00011#5 ++ q.code] ∧ encode .rrHL = [0xCB#8, 0b00011110#8] ∧
    encode (.rrcR q) = [0xCB#8, 0b00001#5 ++ q.code] ∧ encode .rrcHL = [0xCB#8, 0b00001110#8]) ∧
  InPlaceForms .rlR .rlHL 2 2 4 (rotSpec (fun v cf => v <<< 1 ||| bit0 cf) (fun v => v.getLsbD 7)) ∧
  InPlaceForms .rlcR .rlcHL 2 2 4 (rotSpec (fun v _ => v.rotateLeft 1) (fun v => v.getLsbD 7)) ∧
  InPlaceForms .rrR .rrHL 2 2 4 (rotSpec (fun v cf => v >>> 1 ||| bit7 cf) (fun v => v.getLsbD 0)) ∧
  InPlaceForms .rrcR .rrcHL 2 2 4 (rotSpec (fun v _ => v.rotateRight 1) (fun v => v.getLsbD 0))

/-- SLA, SRA, SRL and SWAP on a register and on the byte at HL (R203 to R210): the encoding, the result, Z from it, C the bit
shifted out, cleared by SWAP. -/
def Obligations.ShiftsAndSwap : Prop :=
  (∀ q : Reg8,
    encode (.slaR q) = [0xCB#8, 0b00100#5 ++ q.code] ∧ encode .slaHL = [0xCB#8, 0b00100110#8] ∧
    encode (.sraR q) = [0xCB#8, 0b00101#5 ++ q.code] ∧ encode .sraHL = [0xCB#8, 0b00101110#8] ∧
    encode (.srlR q) = [0xCB#8, 0b00111#5 ++ q.code] ∧ encode .srlHL = [0xCB#8, 0b00111110#8] ∧
    encode (.swapR q) = [0xCB#8, 0b00110#5 ++ q.code] ∧ encode .swapHL = [0xCB#8, 0b00110110#8]) ∧
  InPlaceForms .slaR .slaHL 2 2 4 (rotSpec (fun v _ => v <<< 1) (fun v => v.getLsbD 7)) ∧
  InPlaceForms .sraR .sraHL 2 2 4 (rotSpec (fun v _ => v.sshiftRight 1) (fun v => v.getLsbD 0)) ∧
  InPlaceForms .srlR .srlHL 2 2 4 (rotSpec (fun v _ => v >>> 1) (fun v => v.getLsbD 0)) ∧
  InPlaceForms .swapR .swapHL 2 2 4 (rotSpec (fun v _ => v.rotateLeft 4) (fun _ => false))

/-- Nine RLA, and nine RRA, restore A and CF (R193). -/
def Obligations.NineRotatesRestore : Prop :=
  ∀ s : State,
    execTimes 9 .rla s = .next { s with f := ⟨false, false, false, s.f.c⟩, pc := s.pc + 9, cycles := s.cycles + 9 } ∧
    execTimes 9 .rra s = .next { s with f := ⟨false, false, false, s.f.c⟩, pc := s.pc + 9, cycles := s.cycles + 9 }

/-! ## Bitwise group -/

/-- BIT on a register (R220) and on the byte at HL (R221): the encoding; Z the complement of the tested bit, N cleared, H set, C
unchanged; no register or memory byte written. -/
def Obligations.BitTestsWithoutWriting : Prop :=
  (∀ (k : BitVec 3) (q : Reg8),
    encode (.bitR k q) = [0xCB#8, 0b01#2 ++ k ++ q.code] ∧ encode (.bitHL k) = [0xCB#8, 0b01#2 ++ k ++ 0b110#3]) ∧
  ∀ (k : BitVec 3) (s : State),
    (∀ q : Reg8, exec (.bitR k q) s = .next { s with
      f := { s.f with z := !((s.reg q).getLsbD k.toNat), n := false, h := true }, pc := s.pc + 2, cycles := s.cycles + 2 }) ∧
    exec (.bitHL k) s = .next { s with
      f := { s.f with z := !((s.busByte s.hl).getLsbD k.toNat), n := false, h := true }, pc := s.pc + 2, cycles := s.cycles + 3
      bus := s.busAfterRead s.hl }

/-- RES and SET on a register (R222, R224) and on the byte at HL (R223, R225): the encoding; one bit written, the other seven and
all flags kept; the (HL) forms read once and write once even where the bit has the value already. -/
def Obligations.ResetAndSetBit : Prop :=
  (∀ (k : BitVec 3) (q : Reg8),
    encode (.resR k q) = [0xCB#8, 0b10#2 ++ k ++ q.code] ∧ encode (.resHL k) = [0xCB#8, 0b10#2 ++ k ++ 0b110#3] ∧
    encode (.setR k q) = [0xCB#8, 0b11#2 ++ k ++ q.code] ∧ encode (.setHL k) = [0xCB#8, 0b11#2 ++ k ++ 0b110#3]) ∧
  (∀ k : BitVec 3,
    InPlaceForms (.resR k) (.resHL k) 2 2 4 (fun v f => (v &&& ~~~(1#8 <<< k.toNat), f)) ∧
    InPlaceForms (.setR k) (.setHL k) 2 2 4 (fun v f => (v ||| 1#8 <<< k.toNat, f))) ∧
  ∀ (k : BitVec 3) (q : Reg8) (s : State), ∃ t u, exec (.resR k q) s = .next t ∧ exec (.setR k q) s = .next u ∧
    ∀ j, j < 8 →
      (t.reg q).getLsbD j = (if j = k.toNat then false else (s.reg q).getLsbD j) ∧
      (u.reg q).getLsbD j = (if j = k.toNat then true else (s.reg q).getLsbD j)

/-! ## Control flow group -/

/-- `JP nn` (R234), NOP (R254) and SCF (R255): the encoding and the whole effect. -/
def Obligations.JumpNopScf : Prop :=
  (∀ nn : Word, encode (.jpNN nn) = [0b11000011#8, nn.setWidth 8, (nn >>> 8).setWidth 8]) ∧
  encode .nop = [0b00000000#8] ∧ encode .scf = [0b00110111#8] ∧
  ∀ s : State,
    (∀ nn : Word, exec (.jpNN nn) s = .next { s with pc := nn, cycles := s.cycles + 4 }) ∧
    exec .nop s = .next { s with pc := s.pc + 1, cycles := s.cycles + 1 } ∧
    exec .scf s = .next { s with f := ⟨s.f.z, false, false, true⟩, pc := s.pc + 1, cycles := s.cycles + 1 }

/-- RST, CALL and CALL cc (R231 to R233; that PC is pushed as a pair is, and which PC, are decisions D9 and D14, logs 14 and 15): the
address after the instruction pushed, high byte at SP - 1, low byte at SP - 2; a CALL cc whose condition is false does nothing. -/
def Obligations.CallsPushReturnAddress : Prop :=
  ∀ s : State, s.Inv →
    (∀ (i : Instr) (len : Word) (cyc : Nat) (target : Word),
      (i = .rst target ∧ len = 1 ∧ cyc = 4) ∨ (i = .callNN target ∧ len = 3 ∧ cyc = 6) ∨
        (∃ cc, i = .callCcNN cc target ∧ len = 3 ∧ cyc = 6 ∧ s.cond cc = true) →
      ∃ t, exec i s = .next t ∧
        t = { s with sp := s.sp - 2, pc := target, cycles := s.cycles + cyc, mem := t.mem, bus := t.bus } ∧
        Stores s t [(s.sp - 2, (s.pc + len).setWidth 8), (s.sp - 1, ((s.pc + len) >>> 8).setWidth 8)]) ∧
    ∀ (cc : Cond) (nn : Word), s.cond cc = false →
      exec (.callCcNN cc nn) s = .next { s with pc := s.pc + 3, cycles := s.cycles + 3 }

/-- `JP (HL)`, `JP cc,nn`, `JR e` and `JR cc,e` (R235 to R238; decisions D7, D8, D9, D33 and D44, logs 13 and 15): a relative jump is from the
address after the instruction; a conditional jump whose condition is false only moves PC past itself. -/
def Obligations.JumpsSetPC : Prop :=
  ∀ s : State,
    exec .jpHL s = .next { s with pc := s.h ++ s.l, cycles := s.cycles + 1 } ∧
    (∀ (cc : Cond) (nn : Word), exec (.jpCcNN cc nn) s =
      .next (if s.cond cc then { s with pc := nn, cycles := s.cycles + 4 } else { s with pc := s.pc + 3, cycles := s.cycles + 3 })) ∧
    (∀ e : Byte, exec (.jrE e) s = .next { s with pc := s.pc + 2 + e.signExtend 16, cycles := s.cycles + 3 }) ∧
    ∀ (cc : Cond) (e : Byte), exec (.jrCcE cc e) s =
      .next (if s.cond cc then { s with pc := s.pc + 2 + e.signExtend 16, cycles := s.cycles + 3 }
             else { s with pc := s.pc + 2, cycles := s.cycles + 2 })

/-- RET, RET cc and RETI (R239 to R241; decisions D14, D27 and D33, logs 10, 13 and 14): PC popped, low byte first; RETI also sets ime; a RET
cc whose condition is false does not read the stack. -/
def Obligations.ReturnsPopPC : Prop :=
  ∀ s : State,
    exec .ret s = .next { s with
      pc := s.stackHi ++ s.stackLo, sp := s.sp + 2, cycles := s.cycles + 4, bus := s.busAfterPop } ∧
    exec .reti s = .next { s with
      pc := s.stackHi ++ s.stackLo, sp := s.sp + 2, ime := true, cycles := s.cycles + 4, bus := s.busAfterPop } ∧
    ∀ cc : Cond, exec (.retCc cc) s =
      .next (if s.cond cc then { s with
               pc := s.stackHi ++ s.stackLo, sp := s.sp + 2, cycles := s.cycles + 5, bus := s.busAfterPop }
             else { s with pc := s.pc + 1, cycles := s.cycles + 2 })

/-! ## CPU control group -/

/-- What DI and EI (R250, R251) mean at the boundary after them, a running CPU and no reset asserted (R260, R262; decision D27, log
10): after DI the boundary takes no interrupt whatever is pending, and the step runs the next instruction; after EI it takes a
pending interrupt, and runs the next instruction where none is pending. No later boundary with ime = 0 takes one either. -/
def Obligations.InterruptEnable : Prop :=
  (∀ s : State, ∃ d e, exec .di s = .next d ∧ exec .ei s = .next e ∧
    d = { s with ime := false, pc := s.pc + 1, cycles := s.cycles + 1 } ∧
    e = { s with ime := true, pc := s.pc + 1, cycles := s.cycles + 1 } ∧
    (s.run = .running → s.boundaryInput.reset = false →
      d.boundary = .executes d.boundaryPassed ∧ step d = exec d.boundaryPassed.fetch.1 d.boundaryPassed.fetch.2 ∧
      (s.boundaryInput.pending = none → e.boundary = .executes e.boundaryPassed) ∧
      ∀ k, s.boundaryInput.pending = some k →
        e.boundary = .ends (e.boundaryPassed.interruptEntry k) ∧
        ∃ t, step e = .next t ∧ t.pc = intVector s.platform k ∧ t.ime = false)) ∧
  ∀ s : State, s.run = .running → s.boundaryInput.reset = false → s.ime = false → s.boundary = .executes s.boundaryPassed

/-- HALT (R252), STOP (R253) and CCF (R256). What STOP and CCF do is chosen by the platform parameters STOP_MODE and CCF_H (decisions
D29 and D22, logs 7 and 8): STOP either stops the CPU or is refused by the model; the ignored byte has no effect. -/
def Obligations.HaltStopCcf : Prop :=
  ∀ s : State,
    exec .halt s = .next { s with run := .halted, pc := s.pc + 1, cycles := s.cycles + 1 } ∧
    (∀ x : Byte, s.platform.stopMode = .untilReset →
      exec (.stop x) s = .next { s with run := .stopped, pc := s.pc + 2, cycles := s.cycles + 1 }) ∧
    (∀ x : Byte, s.platform.stopMode = .refuse → exec (.stop x) s = .refused .stopRefused) ∧
    exec .ccf s = .next { s with
      f := ⟨s.f.z, false, s.f.c && decide (s.platform.ccfH = .oldCarry), !s.f.c⟩, pc := s.pc + 1, cycles := s.cycles + 1 }

/-! ## Interrupts and the boundary -/

/-- Interrupt entry (R263, R268; decision D25, log 21): a running or halted CPU with ime = 1 and source `k` pending clears ime,
acknowledges `k`, pushes PC and goes to the handler of `k`; every register, every flag and all other memory stay. -/
def Obligations.InterruptEntry : Prop :=
  ∀ (s : State) (k : Nat), s.Inv → s.run = .running ∨ s.run = .halted → s.ime = true → s.boundaryInput = ⟨false, some k⟩ →
    ∃ t, step s = .next t ∧
      t = { s with
        ime := false, sp := s.sp - 2, pc := intVector s.platform k, run := .running
        cycles := s.cycles + s.platform.intEntryCycles, inputs := s.inputs.tail, mem := t.mem, bus := t.bus } ∧
      Stores { s with bus := .ack k :: s.bus } t [(s.sp - 2, s.pc.setWidth 8), (s.sp - 1, (s.pc >>> 8).setWidth 8)]

/-- RETI undoes an interrupt entry (R264, R271; decisions D14 and D25, logs 14 and 21): where the two bytes below SP are plain memory,
entry followed by RETI restores PC, SP, ime and every register, leaving only the two stack bytes. -/
def Obligations.EntryThenReturn : Prop :=
  ∀ (s : State) (k : Nat), s.Inv → s.run = .running ∨ s.run = .halted → s.ime = true → s.boundaryInput = ⟨false, some k⟩ →
    s.plain (s.sp - 1) → s.plain (s.sp - 2) →
    ∃ t u, step s = .next t ∧ exec .reti t = .next u ∧
      u = { s with
        run := .running, cycles := s.cycles + s.platform.intEntryCycles + 4, inputs := s.inputs.tail
        bus := .ack k :: s.bus, mem := u.mem } ∧
      ∀ x, x ≠ s.sp - 1 → x ≠ s.sp - 2 → u.mem.read x = s.mem.read x

/-- The boundary of a CPU that does not execute, no reset asserted (R268 to R270; decisions D20, D28 and D29, logs 6, 7 and 16): Locked and
Stopped change nothing; Halted changes nothing while nothing is pending; with ime = 0 and something pending the parameter
HALT_WAKE_IME0 says whether it goes on as if running. -/
def Obligations.NotExecuting : Prop :=
  ∀ s : State, s.boundaryInput.reset = false →
    (s.run = .locked ∨ s.run = .stopped → step s = .next { s with inputs := s.inputs.tail }) ∧
    (s.run = .halted → s.boundaryInput.pending = none → step s = .next { s with inputs := s.inputs.tail }) ∧
    (s.run = .halted → s.boundaryInput.pending ≠ none → s.ime = false → s.platform.haltWakeIme0 = false →
      step s = .next { s with inputs := s.inputs.tail }) ∧
    (s.run = .halted → s.boundaryInput.pending ≠ none → s.ime = false → s.platform.haltWakeIme0 = true →
      step s = step { s with run := .running })

/-- Without a reset a locked or stopped CPU stays as it is for good (R269, R270; decisions D20 and D29, logs 7 and 16): any number of
steps only uses up the environment's answers. -/
def Obligations.LockedForGood : Prop :=
  ∀ (s : State) (k : Nat), s.run = .locked ∨ s.run = .stopped → s.neverReset →
    runSteps k s = .next { s with inputs := s.inputs.drop k }

/-! ## Rules of the whole machine -/

/-- Every step keeps the canonical form of memory. -/
def Obligations.MemoryInvariantKept : Prop :=
  ∀ s t : State, s.Inv → step s = .next t → t.Inv

/-- No step faults (R265): every step answers a next state, or is the refusal of a STOP that the platform asks for (log 7). -/
def Obligations.StepNeverFaults : Prop :=
  ∀ s : State, (∃ t, step s = .next t) ∨ (step s = .refused .stopRefused ∧ s.platform.stopMode = .refuse)

/-- The platform instance never changes and a step uses up exactly one answer of the environment (R6, R260; log 4); the bus history
and the cycle count only grow. -/
def Obligations.StepFrame : Prop :=
  ∀ s t : State, step s = .next t →
    t.platform = s.platform ∧ t.inputs = s.inputs.tail ∧ s.cycles ≤ t.cycles ∧ ∃ es, t.bus = es ++ s.bus

/-- The flag columns (R35; the symbols are decisions D1 and D2): a flag marked `-` is unchanged, `0` cleared, `1` set. -/
def Obligations.FlagColumnsObeyed : Prop :=
  ∀ (i : Instr) (s t : State), exec i s = .next t →
    (flagColumns i).z.obeyed s.f.z t.f.z ∧ (flagColumns i).n.obeyed s.f.n t.f.n ∧
    (flagColumns i).h.obeyed s.f.h t.f.h ∧ (flagColumns i).c.obeyed s.f.c t.f.c

/-- Who writes the control state: ime is written by DI, EI and RETI only (R29), the run state by HALT, STOP and the unused opcodes
only (R30), SP by the instructions of R27 only. -/
def Obligations.ControlStateWriters : Prop :=
  ∀ (i : Instr) (s t : State), exec i s = .next t →
    (i ≠ .di → i ≠ .ei → i ≠ .reti → t.ime = s.ime) ∧
    (i ≠ .halt → (∀ x, i ≠ .stop x) → i ∉ unusedInstrs → t.run = s.run) ∧
    (writesSP i = false → t.sp = s.sp)

/-- The cycle counts (R308; decisions D33 and D34, logs 16 and 20): the first number where the transfer is taken, else the second; the
CB prefix counts what its cell does. -/
def Obligations.CycleCounts : Prop :=
  ∀ (i : Instr) (s t : State), exec i s = .next t →
    (∀ a b, cycleCounts i = some (a, b) → t.cycles = s.cycles + if transferTaken i s then a else b) ∧
    (i = .cbPrefix → ∀ a b, cycleCounts (decodeCb (s.busByte (s.pc + 1))) = some (a, b) → t.cycles = s.cycles + a)

/-- An instruction that is none of the storing ones leaves all of memory as it is and tells the bus of reads only (R53). -/
def Obligations.OnlyStoresWriteMemory : Prop :=
  ∀ (i : Instr) (s t : State), mayStore i = false → exec i s = .next t →
    t.mem = s.mem ∧ ∃ xs : List Word, t.bus = xs.map BusEvent.read ++ s.bus

/-- The instructions that read flags (R36): any other, run on two states that differ in the flags only, gives two states that
differ at most in the flags its columns (R35) mark unchanged; those are as before in each, and every flag it writes is the
same, so none of them is computed from an old flag. -/
def Obligations.FlagsReadOnlyByTheirReaders : Prop :=
  ∀ (i : Instr) (s t : State) (g : Flags), readsFlags i = false → exec i s = .next t →
    ∃ t', exec i { s with f := g } = .next t' ∧ t' = { t with f := t'.f } ∧
      t'.f.z = (if (flagColumns i).z = .keep then g.z else t.f.z) ∧
      t'.f.n = (if (flagColumns i).n = .keep then g.n else t.f.n) ∧
      t'.f.h = (if (flagColumns i).h = .keep then g.h else t.f.h) ∧
      t'.f.c = (if (flagColumns i).c = .keep then g.c else t.f.c)

/-! ## Completion of the control instructions -/

/-- DI (R250) and EI (R251; that it acts at once is decision D27, log 10) complete in every state: the encoding, ime written, PC
past the one byte, nothing else changed but the cycle count. -/
def Obligations.DiAndEiComplete : Prop :=
  encode .di = [0b11110011#8] ∧ encode .ei = [0b11111011#8] ∧
  ∀ s : State,
    exec .di s = .next { s with ime := false, pc := s.pc + 1, cycles := s.cycles + 1 } ∧
    exec .ei s = .next { s with ime := true, pc := s.pc + 1, cycles := s.cycles + 1 }

end Statements
end

