-- ==== Sys2Proof/Laws/State.lean ====
section
/-! SUPPORT. One lemma for each field and each update of State, so that no proof unfolds a record update. -/

namespace Sys2Proof.Machine

/-! ### `advance`: PC and the cycle count (R28, R308) -/

@[simp] theorem State.advance_a (s : State) (n k : Nat) : (s.advance n k).a = s.a := rfl
@[simp] theorem State.advance_f (s : State) (n k : Nat) : (s.advance n k).f = s.f := rfl
@[simp] theorem State.advance_b (s : State) (n k : Nat) : (s.advance n k).b = s.b := rfl
@[simp] theorem State.advance_c (s : State) (n k : Nat) : (s.advance n k).c = s.c := rfl
@[simp] theorem State.advance_d (s : State) (n k : Nat) : (s.advance n k).d = s.d := rfl
@[simp] theorem State.advance_e (s : State) (n k : Nat) : (s.advance n k).e = s.e := rfl
@[simp] theorem State.advance_h (s : State) (n k : Nat) : (s.advance n k).h = s.h := rfl
@[simp] theorem State.advance_l (s : State) (n k : Nat) : (s.advance n k).l = s.l := rfl
@[simp] theorem State.advance_sp (s : State) (n k : Nat) : (s.advance n k).sp = s.sp := rfl
@[simp] theorem State.advance_pc (s : State) (n k : Nat) : (s.advance n k).pc = s.pc + BitVec.ofNat 16 n := rfl
@[simp] theorem State.advance_ime (s : State) (n k : Nat) : (s.advance n k).ime = s.ime := rfl
@[simp] theorem State.advance_run (s : State) (n k : Nat) : (s.advance n k).run = s.run := rfl
@[simp] theorem State.advance_mem (s : State) (n k : Nat) : (s.advance n k).mem = s.mem := rfl
@[simp] theorem State.advance_bus (s : State) (n k : Nat) : (s.advance n k).bus = s.bus := rfl
@[simp] theorem State.advance_inputs (s : State) (n k : Nat) : (s.advance n k).inputs = s.inputs := rfl
@[simp] theorem State.advance_cycles (s : State) (n k : Nat) : (s.advance n k).cycles = s.cycles + k := rfl
@[simp] theorem State.advance_platform (s : State) (n k : Nat) : (s.advance n k).platform = s.platform := rfl

/-! ### `spend`: the cycle count -/

@[simp] theorem State.spend_a (s : State) (k : Nat) : (s.spend k).a = s.a := rfl
@[simp] theorem State.spend_f (s : State) (k : Nat) : (s.spend k).f = s.f := rfl
@[simp] theorem State.spend_b (s : State) (k : Nat) : (s.spend k).b = s.b := rfl
@[simp] theorem State.spend_c (s : State) (k : Nat) : (s.spend k).c = s.c := rfl
@[simp] theorem State.spend_d (s : State) (k : Nat) : (s.spend k).d = s.d := rfl
@[simp] theorem State.spend_e (s : State) (k : Nat) : (s.spend k).e = s.e := rfl
@[simp] theorem State.spend_h (s : State) (k : Nat) : (s.spend k).h = s.h := rfl
@[simp] theorem State.spend_l (s : State) (k : Nat) : (s.spend k).l = s.l := rfl
@[simp] theorem State.spend_sp (s : State) (k : Nat) : (s.spend k).sp = s.sp := rfl
@[simp] theorem State.spend_pc (s : State) (k : Nat) : (s.spend k).pc = s.pc := rfl
@[simp] theorem State.spend_ime (s : State) (k : Nat) : (s.spend k).ime = s.ime := rfl
@[simp] theorem State.spend_run (s : State) (k : Nat) : (s.spend k).run = s.run := rfl
@[simp] theorem State.spend_mem (s : State) (k : Nat) : (s.spend k).mem = s.mem := rfl
@[simp] theorem State.spend_bus (s : State) (k : Nat) : (s.spend k).bus = s.bus := rfl
@[simp] theorem State.spend_inputs (s : State) (k : Nat) : (s.spend k).inputs = s.inputs := rfl
@[simp] theorem State.spend_cycles (s : State) (k : Nat) : (s.spend k).cycles = s.cycles + k := rfl
@[simp] theorem State.spend_platform (s : State) (k : Nat) : (s.spend k).platform = s.platform := rfl

/-! ### `jump`: PC (R9) -/

@[simp] theorem State.jump_a (s : State) (t : Word) : (s.jump t).a = s.a := rfl
@[simp] theorem State.jump_f (s : State) (t : Word) : (s.jump t).f = s.f := rfl
@[simp] theorem State.jump_b (s : State) (t : Word) : (s.jump t).b = s.b := rfl
@[simp] theorem State.jump_c (s : State) (t : Word) : (s.jump t).c = s.c := rfl
@[simp] theorem State.jump_d (s : State) (t : Word) : (s.jump t).d = s.d := rfl
@[simp] theorem State.jump_e (s : State) (t : Word) : (s.jump t).e = s.e := rfl
@[simp] theorem State.jump_h (s : State) (t : Word) : (s.jump t).h = s.h := rfl
@[simp] theorem State.jump_l (s : State) (t : Word) : (s.jump t).l = s.l := rfl
@[simp] theorem State.jump_sp (s : State) (t : Word) : (s.jump t).sp = s.sp := rfl
@[simp] theorem State.jump_pc (s : State) (t : Word) : (s.jump t).pc = t := rfl
@[simp] theorem State.jump_ime (s : State) (t : Word) : (s.jump t).ime = s.ime := rfl
@[simp] theorem State.jump_run (s : State) (t : Word) : (s.jump t).run = s.run := rfl
@[simp] theorem State.jump_mem (s : State) (t : Word) : (s.jump t).mem = s.mem := rfl
@[simp] theorem State.jump_bus (s : State) (t : Word) : (s.jump t).bus = s.bus := rfl
@[simp] theorem State.jump_inputs (s : State) (t : Word) : (s.jump t).inputs = s.inputs := rfl
@[simp] theorem State.jump_cycles (s : State) (t : Word) : (s.jump t).cycles = s.cycles := rfl
@[simp] theorem State.jump_platform (s : State) (t : Word) : (s.jump t).platform = s.platform := rfl

/-! ### `memRead`: the bus history (R52, R59) -/

@[simp] theorem State.memRead_state_a (s : State) (x : Word) : ((s.memRead x).2).a = s.a := rfl
@[simp] theorem State.memRead_state_f (s : State) (x : Word) : ((s.memRead x).2).f = s.f := rfl
@[simp] theorem State.memRead_state_b (s : State) (x : Word) : ((s.memRead x).2).b = s.b := rfl
@[simp] theorem State.memRead_state_c (s : State) (x : Word) : ((s.memRead x).2).c = s.c := rfl
@[simp] theorem State.memRead_state_d (s : State) (x : Word) : ((s.memRead x).2).d = s.d := rfl
@[simp] theorem State.memRead_state_e (s : State) (x : Word) : ((s.memRead x).2).e = s.e := rfl
@[simp] theorem State.memRead_state_h (s : State) (x : Word) : ((s.memRead x).2).h = s.h := rfl
@[simp] theorem State.memRead_state_l (s : State) (x : Word) : ((s.memRead x).2).l = s.l := rfl
@[simp] theorem State.memRead_state_sp (s : State) (x : Word) : ((s.memRead x).2).sp = s.sp := rfl
@[simp] theorem State.memRead_state_pc (s : State) (x : Word) : ((s.memRead x).2).pc = s.pc := rfl
@[simp] theorem State.memRead_state_ime (s : State) (x : Word) : ((s.memRead x).2).ime = s.ime := rfl
@[simp] theorem State.memRead_state_run (s : State) (x : Word) : ((s.memRead x).2).run = s.run := rfl
@[simp] theorem State.memRead_state_mem (s : State) (x : Word) : ((s.memRead x).2).mem = s.mem := rfl
@[simp] theorem State.memRead_state_bus (s : State) (x : Word) : ((s.memRead x).2).bus = s.busAfterRead x := rfl
@[simp] theorem State.memRead_state_inputs (s : State) (x : Word) : ((s.memRead x).2).inputs = s.inputs := rfl
@[simp] theorem State.memRead_state_cycles (s : State) (x : Word) : ((s.memRead x).2).cycles = s.cycles := rfl
@[simp] theorem State.memRead_state_platform (s : State) (x : Word) : ((s.memRead x).2).platform = s.platform := rfl
@[simp] theorem State.memRead_value (s : State) (x : Word) : (s.memRead x).1 = s.busByte x := rfl

/-! ### `afterRead`: the bus history -/

@[simp] theorem State.afterRead_a (s : State) (x : Word) : (s.afterRead x).a = s.a := rfl
@[simp] theorem State.afterRead_f (s : State) (x : Word) : (s.afterRead x).f = s.f := rfl
@[simp] theorem State.afterRead_b (s : State) (x : Word) : (s.afterRead x).b = s.b := rfl
@[simp] theorem State.afterRead_c (s : State) (x : Word) : (s.afterRead x).c = s.c := rfl
@[simp] theorem State.afterRead_d (s : State) (x : Word) : (s.afterRead x).d = s.d := rfl
@[simp] theorem State.afterRead_e (s : State) (x : Word) : (s.afterRead x).e = s.e := rfl
@[simp] theorem State.afterRead_h (s : State) (x : Word) : (s.afterRead x).h = s.h := rfl
@[simp] theorem State.afterRead_l (s : State) (x : Word) : (s.afterRead x).l = s.l := rfl
@[simp] theorem State.afterRead_sp (s : State) (x : Word) : (s.afterRead x).sp = s.sp := rfl
@[simp] theorem State.afterRead_pc (s : State) (x : Word) : (s.afterRead x).pc = s.pc := rfl
@[simp] theorem State.afterRead_ime (s : State) (x : Word) : (s.afterRead x).ime = s.ime := rfl
@[simp] theorem State.afterRead_run (s : State) (x : Word) : (s.afterRead x).run = s.run := rfl
@[simp] theorem State.afterRead_mem (s : State) (x : Word) : (s.afterRead x).mem = s.mem := rfl
@[simp] theorem State.afterRead_bus (s : State) (x : Word) : (s.afterRead x).bus = s.busAfterRead x := rfl
@[simp] theorem State.afterRead_inputs (s : State) (x : Word) : (s.afterRead x).inputs = s.inputs := rfl
@[simp] theorem State.afterRead_cycles (s : State) (x : Word) : (s.afterRead x).cycles = s.cycles := rfl
@[simp] theorem State.afterRead_platform (s : State) (x : Word) : (s.afterRead x).platform = s.platform := rfl

/-! ### `memWrite`: memory and the bus history (R52) -/

@[simp] theorem State.memWrite_a (s : State) (x : Word) (v : Byte) : (s.memWrite x v).a = s.a := rfl
@[simp] theorem State.memWrite_f (s : State) (x : Word) (v : Byte) : (s.memWrite x v).f = s.f := rfl
@[simp] theorem State.memWrite_b (s : State) (x : Word) (v : Byte) : (s.memWrite x v).b = s.b := rfl
@[simp] theorem State.memWrite_c (s : State) (x : Word) (v : Byte) : (s.memWrite x v).c = s.c := rfl
@[simp] theorem State.memWrite_d (s : State) (x : Word) (v : Byte) : (s.memWrite x v).d = s.d := rfl
@[simp] theorem State.memWrite_e (s : State) (x : Word) (v : Byte) : (s.memWrite x v).e = s.e := rfl
@[simp] theorem State.memWrite_h (s : State) (x : Word) (v : Byte) : (s.memWrite x v).h = s.h := rfl
@[simp] theorem State.memWrite_l (s : State) (x : Word) (v : Byte) : (s.memWrite x v).l = s.l := rfl
@[simp] theorem State.memWrite_sp (s : State) (x : Word) (v : Byte) : (s.memWrite x v).sp = s.sp := rfl
@[simp] theorem State.memWrite_pc (s : State) (x : Word) (v : Byte) : (s.memWrite x v).pc = s.pc := rfl
@[simp] theorem State.memWrite_ime (s : State) (x : Word) (v : Byte) : (s.memWrite x v).ime = s.ime := rfl
@[simp] theorem State.memWrite_run (s : State) (x : Word) (v : Byte) : (s.memWrite x v).run = s.run := rfl
@[simp] theorem State.memWrite_mem (s : State) (x : Word) (v : Byte) : (s.memWrite x v).mem = if platformOwns s.platform x then s.mem else s.mem.write x v := rfl
@[simp] theorem State.memWrite_bus (s : State) (x : Word) (v : Byte) : (s.memWrite x v).bus = if platformOwns s.platform x then .write x v :: s.bus else s.bus := rfl
@[simp] theorem State.memWrite_inputs (s : State) (x : Word) (v : Byte) : (s.memWrite x v).inputs = s.inputs := rfl
@[simp] theorem State.memWrite_cycles (s : State) (x : Word) (v : Byte) : (s.memWrite x v).cycles = s.cycles := rfl
@[simp] theorem State.memWrite_platform (s : State) (x : Word) (v : Byte) : (s.memWrite x v).platform = s.platform := rfl

/-! ### `memWrite2`: memory and the bus history (R57) -/

@[simp] theorem State.memWrite2_a (s : State) (x v : Word) : (s.memWrite2 x v).a = s.a := rfl
@[simp] theorem State.memWrite2_f (s : State) (x v : Word) : (s.memWrite2 x v).f = s.f := rfl
@[simp] theorem State.memWrite2_b (s : State) (x v : Word) : (s.memWrite2 x v).b = s.b := rfl
@[simp] theorem State.memWrite2_c (s : State) (x v : Word) : (s.memWrite2 x v).c = s.c := rfl
@[simp] theorem State.memWrite2_d (s : State) (x v : Word) : (s.memWrite2 x v).d = s.d := rfl
@[simp] theorem State.memWrite2_e (s : State) (x v : Word) : (s.memWrite2 x v).e = s.e := rfl
@[simp] theorem State.memWrite2_h (s : State) (x v : Word) : (s.memWrite2 x v).h = s.h := rfl
@[simp] theorem State.memWrite2_l (s : State) (x v : Word) : (s.memWrite2 x v).l = s.l := rfl
@[simp] theorem State.memWrite2_sp (s : State) (x v : Word) : (s.memWrite2 x v).sp = s.sp := rfl
@[simp] theorem State.memWrite2_pc (s : State) (x v : Word) : (s.memWrite2 x v).pc = s.pc := rfl
@[simp] theorem State.memWrite2_ime (s : State) (x v : Word) : (s.memWrite2 x v).ime = s.ime := rfl
@[simp] theorem State.memWrite2_run (s : State) (x v : Word) : (s.memWrite2 x v).run = s.run := rfl
@[simp] theorem State.memWrite2_inputs (s : State) (x v : Word) : (s.memWrite2 x v).inputs = s.inputs := rfl
@[simp] theorem State.memWrite2_cycles (s : State) (x v : Word) : (s.memWrite2 x v).cycles = s.cycles := rfl
@[simp] theorem State.memWrite2_platform (s : State) (x v : Word) : (s.memWrite2 x v).platform = s.platform := rfl

/-! ### `setBC` (R21) -/

@[simp] theorem State.setBC_a (s : State) (v : Word) : (s.setBC v).a = s.a := rfl
@[simp] theorem State.setBC_f (s : State) (v : Word) : (s.setBC v).f = s.f := rfl
@[simp] theorem State.setBC_b (s : State) (v : Word) : (s.setBC v).b = hi8 v := rfl
@[simp] theorem State.setBC_c (s : State) (v : Word) : (s.setBC v).c = lo8 v := rfl
@[simp] theorem State.setBC_d (s : State) (v : Word) : (s.setBC v).d = s.d := rfl
@[simp] theorem State.setBC_e (s : State) (v : Word) : (s.setBC v).e = s.e := rfl
@[simp] theorem State.setBC_h (s : State) (v : Word) : (s.setBC v).h = s.h := rfl
@[simp] theorem State.setBC_l (s : State) (v : Word) : (s.setBC v).l = s.l := rfl
@[simp] theorem State.setBC_sp (s : State) (v : Word) : (s.setBC v).sp = s.sp := rfl
@[simp] theorem State.setBC_pc (s : State) (v : Word) : (s.setBC v).pc = s.pc := rfl
@[simp] theorem State.setBC_ime (s : State) (v : Word) : (s.setBC v).ime = s.ime := rfl
@[simp] theorem State.setBC_run (s : State) (v : Word) : (s.setBC v).run = s.run := rfl
@[simp] theorem State.setBC_mem (s : State) (v : Word) : (s.setBC v).mem = s.mem := rfl
@[simp] theorem State.setBC_bus (s : State) (v : Word) : (s.setBC v).bus = s.bus := rfl
@[simp] theorem State.setBC_inputs (s : State) (v : Word) : (s.setBC v).inputs = s.inputs := rfl
@[simp] theorem State.setBC_cycles (s : State) (v : Word) : (s.setBC v).cycles = s.cycles := rfl
@[simp] theorem State.setBC_platform (s : State) (v : Word) : (s.setBC v).platform = s.platform := rfl

/-! ### `setDE` (R21) -/

@[simp] theorem State.setDE_a (s : State) (v : Word) : (s.setDE v).a = s.a := rfl
@[simp] theorem State.setDE_f (s : State) (v : Word) : (s.setDE v).f = s.f := rfl
@[simp] theorem State.setDE_b (s : State) (v : Word) : (s.setDE v).b = s.b := rfl
@[simp] theorem State.setDE_c (s : State) (v : Word) : (s.setDE v).c = s.c := rfl
@[simp] theorem State.setDE_d (s : State) (v : Word) : (s.setDE v).d = hi8 v := rfl
@[simp] theorem State.setDE_e (s : State) (v : Word) : (s.setDE v).e = lo8 v := rfl
@[simp] theorem State.setDE_h (s : State) (v : Word) : (s.setDE v).h = s.h := rfl
@[simp] theorem State.setDE_l (s : State) (v : Word) : (s.setDE v).l = s.l := rfl
@[simp] theorem State.setDE_sp (s : State) (v : Word) : (s.setDE v).sp = s.sp := rfl
@[simp] theorem State.setDE_pc (s : State) (v : Word) : (s.setDE v).pc = s.pc := rfl
@[simp] theorem State.setDE_ime (s : State) (v : Word) : (s.setDE v).ime = s.ime := rfl
@[simp] theorem State.setDE_run (s : State) (v : Word) : (s.setDE v).run = s.run := rfl
@[simp] theorem State.setDE_mem (s : State) (v : Word) : (s.setDE v).mem = s.mem := rfl
@[simp] theorem State.setDE_bus (s : State) (v : Word) : (s.setDE v).bus = s.bus := rfl
@[simp] theorem State.setDE_inputs (s : State) (v : Word) : (s.setDE v).inputs = s.inputs := rfl
@[simp] theorem State.setDE_cycles (s : State) (v : Word) : (s.setDE v).cycles = s.cycles := rfl
@[simp] theorem State.setDE_platform (s : State) (v : Word) : (s.setDE v).platform = s.platform := rfl

/-! ### `setHL` (R21) -/

@[simp] theorem State.setHL_a (s : State) (v : Word) : (s.setHL v).a = s.a := rfl
@[simp] theorem State.setHL_f (s : State) (v : Word) : (s.setHL v).f = s.f := rfl
@[simp] theorem State.setHL_b (s : State) (v : Word) : (s.setHL v).b = s.b := rfl
@[simp] theorem State.setHL_c (s : State) (v : Word) : (s.setHL v).c = s.c := rfl
@[simp] theorem State.setHL_d (s : State) (v : Word) : (s.setHL v).d = s.d := rfl
@[simp] theorem State.setHL_e (s : State) (v : Word) : (s.setHL v).e = s.e := rfl
@[simp] theorem State.setHL_h (s : State) (v : Word) : (s.setHL v).h = hi8 v := rfl
@[simp] theorem State.setHL_l (s : State) (v : Word) : (s.setHL v).l = lo8 v := rfl
@[simp] theorem State.setHL_sp (s : State) (v : Word) : (s.setHL v).sp = s.sp := rfl
@[simp] theorem State.setHL_pc (s : State) (v : Word) : (s.setHL v).pc = s.pc := rfl
@[simp] theorem State.setHL_ime (s : State) (v : Word) : (s.setHL v).ime = s.ime := rfl
@[simp] theorem State.setHL_run (s : State) (v : Word) : (s.setHL v).run = s.run := rfl
@[simp] theorem State.setHL_mem (s : State) (v : Word) : (s.setHL v).mem = s.mem := rfl
@[simp] theorem State.setHL_bus (s : State) (v : Word) : (s.setHL v).bus = s.bus := rfl
@[simp] theorem State.setHL_inputs (s : State) (v : Word) : (s.setHL v).inputs = s.inputs := rfl
@[simp] theorem State.setHL_cycles (s : State) (v : Word) : (s.setHL v).cycles = s.cycles := rfl
@[simp] theorem State.setHL_platform (s : State) (v : Word) : (s.setHL v).platform = s.platform := rfl

/-! ### `setAF` (R21, R26) -/

@[simp] theorem State.setAF_a (s : State) (v : Word) : (s.setAF v).a = hi8 v := rfl
@[simp] theorem State.setAF_f (s : State) (v : Word) : (s.setAF v).f = Flags.ofByte (lo8 v) := rfl
@[simp] theorem State.setAF_b (s : State) (v : Word) : (s.setAF v).b = s.b := rfl
@[simp] theorem State.setAF_c (s : State) (v : Word) : (s.setAF v).c = s.c := rfl
@[simp] theorem State.setAF_d (s : State) (v : Word) : (s.setAF v).d = s.d := rfl
@[simp] theorem State.setAF_e (s : State) (v : Word) : (s.setAF v).e = s.e := rfl
@[simp] theorem State.setAF_h (s : State) (v : Word) : (s.setAF v).h = s.h := rfl
@[simp] theorem State.setAF_l (s : State) (v : Word) : (s.setAF v).l = s.l := rfl
@[simp] theorem State.setAF_sp (s : State) (v : Word) : (s.setAF v).sp = s.sp := rfl
@[simp] theorem State.setAF_pc (s : State) (v : Word) : (s.setAF v).pc = s.pc := rfl
@[simp] theorem State.setAF_ime (s : State) (v : Word) : (s.setAF v).ime = s.ime := rfl
@[simp] theorem State.setAF_run (s : State) (v : Word) : (s.setAF v).run = s.run := rfl
@[simp] theorem State.setAF_mem (s : State) (v : Word) : (s.setAF v).mem = s.mem := rfl
@[simp] theorem State.setAF_bus (s : State) (v : Word) : (s.setAF v).bus = s.bus := rfl
@[simp] theorem State.setAF_inputs (s : State) (v : Word) : (s.setAF v).inputs = s.inputs := rfl
@[simp] theorem State.setAF_cycles (s : State) (v : Word) : (s.setAF v).cycles = s.cycles := rfl
@[simp] theorem State.setAF_platform (s : State) (v : Word) : (s.setAF v).platform = s.platform := rfl

/-! ### `setReg` (R22) -/

@[simp] theorem State.setReg_f (s : State) (r : Reg8) (v : Byte) : (s.setReg r v).f = s.f := by cases r <;> rfl
@[simp] theorem State.setReg_sp (s : State) (r : Reg8) (v : Byte) : (s.setReg r v).sp = s.sp := by cases r <;> rfl
@[simp] theorem State.setReg_pc (s : State) (r : Reg8) (v : Byte) : (s.setReg r v).pc = s.pc := by cases r <;> rfl
@[simp] theorem State.setReg_ime (s : State) (r : Reg8) (v : Byte) : (s.setReg r v).ime = s.ime := by cases r <;> rfl
@[simp] theorem State.setReg_run (s : State) (r : Reg8) (v : Byte) : (s.setReg r v).run = s.run := by cases r <;> rfl
@[simp] theorem State.setReg_mem (s : State) (r : Reg8) (v : Byte) : (s.setReg r v).mem = s.mem := by cases r <;> rfl
@[simp] theorem State.setReg_bus (s : State) (r : Reg8) (v : Byte) : (s.setReg r v).bus = s.bus := by cases r <;> rfl
@[simp] theorem State.setReg_inputs (s : State) (r : Reg8) (v : Byte) : (s.setReg r v).inputs = s.inputs := by cases r <;> rfl
@[simp] theorem State.setReg_cycles (s : State) (r : Reg8) (v : Byte) : (s.setReg r v).cycles = s.cycles := by cases r <;> rfl
@[simp] theorem State.setReg_platform (s : State) (r : Reg8) (v : Byte) : (s.setReg r v).platform = s.platform := by cases r <;> rfl

/-! ### `setPairP` (R23) -/

@[simp] theorem State.setPairP_a (s : State) (p : PairP) (v : Word) : (s.setPairP p v).a = s.a := by cases p <;> rfl
@[simp] theorem State.setPairP_f (s : State) (p : PairP) (v : Word) : (s.setPairP p v).f = s.f := by cases p <;> rfl
@[simp] theorem State.setPairP_pc (s : State) (p : PairP) (v : Word) : (s.setPairP p v).pc = s.pc := by cases p <;> rfl
@[simp] theorem State.setPairP_ime (s : State) (p : PairP) (v : Word) : (s.setPairP p v).ime = s.ime := by cases p <;> rfl
@[simp] theorem State.setPairP_run (s : State) (p : PairP) (v : Word) : (s.setPairP p v).run = s.run := by cases p <;> rfl
@[simp] theorem State.setPairP_mem (s : State) (p : PairP) (v : Word) : (s.setPairP p v).mem = s.mem := by cases p <;> rfl
@[simp] theorem State.setPairP_bus (s : State) (p : PairP) (v : Word) : (s.setPairP p v).bus = s.bus := by cases p <;> rfl
@[simp] theorem State.setPairP_inputs (s : State) (p : PairP) (v : Word) : (s.setPairP p v).inputs = s.inputs := by cases p <;> rfl
@[simp] theorem State.setPairP_cycles (s : State) (p : PairP) (v : Word) : (s.setPairP p v).cycles = s.cycles := by cases p <;> rfl
@[simp] theorem State.setPairP_platform (s : State) (p : PairP) (v : Word) : (s.setPairP p v).platform = s.platform := by cases p <;> rfl

/-! ### `setPairQ` (R24) -/

@[simp] theorem State.setPairQ_sp (s : State) (q : PairQ) (v : Word) : (s.setPairQ q v).sp = s.sp := by cases q <;> rfl
@[simp] theorem State.setPairQ_pc (s : State) (q : PairQ) (v : Word) : (s.setPairQ q v).pc = s.pc := by cases q <;> rfl
@[simp] theorem State.setPairQ_ime (s : State) (q : PairQ) (v : Word) : (s.setPairQ q v).ime = s.ime := by cases q <;> rfl
@[simp] theorem State.setPairQ_run (s : State) (q : PairQ) (v : Word) : (s.setPairQ q v).run = s.run := by cases q <;> rfl
@[simp] theorem State.setPairQ_mem (s : State) (q : PairQ) (v : Word) : (s.setPairQ q v).mem = s.mem := by cases q <;> rfl
@[simp] theorem State.setPairQ_bus (s : State) (q : PairQ) (v : Word) : (s.setPairQ q v).bus = s.bus := by cases q <;> rfl
@[simp] theorem State.setPairQ_inputs (s : State) (q : PairQ) (v : Word) : (s.setPairQ q v).inputs = s.inputs := by cases q <;> rfl
@[simp] theorem State.setPairQ_cycles (s : State) (q : PairQ) (v : Word) : (s.setPairQ q v).cycles = s.cycles := by cases q <;> rfl
@[simp] theorem State.setPairQ_platform (s : State) (q : PairQ) (v : Word) : (s.setPairQ q v).platform = s.platform := by cases q <;> rfl

/-! ### `push16`: SP, memory and the bus history (R58) -/

@[simp] theorem State.push16_a (s : State) (v : Word) : (s.push16 v).a = s.a := rfl
@[simp] theorem State.push16_f (s : State) (v : Word) : (s.push16 v).f = s.f := rfl
@[simp] theorem State.push16_b (s : State) (v : Word) : (s.push16 v).b = s.b := rfl
@[simp] theorem State.push16_c (s : State) (v : Word) : (s.push16 v).c = s.c := rfl
@[simp] theorem State.push16_d (s : State) (v : Word) : (s.push16 v).d = s.d := rfl
@[simp] theorem State.push16_e (s : State) (v : Word) : (s.push16 v).e = s.e := rfl
@[simp] theorem State.push16_h (s : State) (v : Word) : (s.push16 v).h = s.h := rfl
@[simp] theorem State.push16_l (s : State) (v : Word) : (s.push16 v).l = s.l := rfl
@[simp] theorem State.push16_sp (s : State) (v : Word) : (s.push16 v).sp = s.sp - 2 := by
  show s.sp - 1 - 1 = s.sp - 2
  bv_omega
@[simp] theorem State.push16_pc (s : State) (v : Word) : (s.push16 v).pc = s.pc := rfl
@[simp] theorem State.push16_ime (s : State) (v : Word) : (s.push16 v).ime = s.ime := rfl
@[simp] theorem State.push16_run (s : State) (v : Word) : (s.push16 v).run = s.run := rfl
@[simp] theorem State.push16_inputs (s : State) (v : Word) : (s.push16 v).inputs = s.inputs := rfl
@[simp] theorem State.push16_cycles (s : State) (v : Word) : (s.push16 v).cycles = s.cycles := rfl
@[simp] theorem State.push16_platform (s : State) (v : Word) : (s.push16 v).platform = s.platform := rfl

/-! ### `pop16`: SP and the bus history (R58) -/

@[simp] theorem State.pop16_state_a (s : State) : (s.pop16.2).a = s.a := rfl
@[simp] theorem State.pop16_state_f (s : State) : (s.pop16.2).f = s.f := rfl
@[simp] theorem State.pop16_state_b (s : State) : (s.pop16.2).b = s.b := rfl
@[simp] theorem State.pop16_state_c (s : State) : (s.pop16.2).c = s.c := rfl
@[simp] theorem State.pop16_state_d (s : State) : (s.pop16.2).d = s.d := rfl
@[simp] theorem State.pop16_state_e (s : State) : (s.pop16.2).e = s.e := rfl
@[simp] theorem State.pop16_state_h (s : State) : (s.pop16.2).h = s.h := rfl
@[simp] theorem State.pop16_state_l (s : State) : (s.pop16.2).l = s.l := rfl
@[simp] theorem State.pop16_state_sp (s : State) : (s.pop16.2).sp = s.sp + 2 := by
  show s.sp + 1 + 1 = s.sp + 2
  bv_omega
@[simp] theorem State.pop16_state_pc (s : State) : (s.pop16.2).pc = s.pc := rfl
@[simp] theorem State.pop16_state_ime (s : State) : (s.pop16.2).ime = s.ime := rfl
@[simp] theorem State.pop16_state_run (s : State) : (s.pop16.2).run = s.run := rfl
@[simp] theorem State.pop16_state_mem (s : State) : (s.pop16.2).mem = s.mem := rfl
@[simp] theorem State.pop16_state_bus (s : State) : (s.pop16.2).bus = s.busAfterPop := rfl
@[simp] theorem State.pop16_state_inputs (s : State) : (s.pop16.2).inputs = s.inputs := rfl
@[simp] theorem State.pop16_state_cycles (s : State) : (s.pop16.2).cycles = s.cycles := rfl
@[simp] theorem State.pop16_state_platform (s : State) : (s.pop16.2).platform = s.platform := rfl
@[simp] theorem State.pop16_value (s : State) : s.pop16.1 = joinBytes s.stackHi s.stackLo := rfl

/-! ### `call`: PC and the stack (R231, R232) -/

@[simp] theorem State.call_a (s : State) (t : Word) : (s.call t).a = s.a := rfl
@[simp] theorem State.call_f (s : State) (t : Word) : (s.call t).f = s.f := rfl
@[simp] theorem State.call_b (s : State) (t : Word) : (s.call t).b = s.b := rfl
@[simp] theorem State.call_c (s : State) (t : Word) : (s.call t).c = s.c := rfl
@[simp] theorem State.call_d (s : State) (t : Word) : (s.call t).d = s.d := rfl
@[simp] theorem State.call_e (s : State) (t : Word) : (s.call t).e = s.e := rfl
@[simp] theorem State.call_h (s : State) (t : Word) : (s.call t).h = s.h := rfl
@[simp] theorem State.call_l (s : State) (t : Word) : (s.call t).l = s.l := rfl
@[simp] theorem State.call_sp (s : State) (t : Word) : (s.call t).sp = s.sp - 2 := s.push16_sp s.pc
@[simp] theorem State.call_pc (s : State) (t : Word) : (s.call t).pc = t := rfl
@[simp] theorem State.call_ime (s : State) (t : Word) : (s.call t).ime = s.ime := rfl
@[simp] theorem State.call_run (s : State) (t : Word) : (s.call t).run = s.run := rfl
@[simp] theorem State.call_inputs (s : State) (t : Word) : (s.call t).inputs = s.inputs := rfl
@[simp] theorem State.call_cycles (s : State) (t : Word) : (s.call t).cycles = s.cycles := rfl
@[simp] theorem State.call_platform (s : State) (t : Word) : (s.call t).platform = s.platform := rfl

/-! ### `ret`: PC and the stack (R239) -/

@[simp] theorem State.ret_a (s : State) : (s.ret).a = s.a := rfl
@[simp] theorem State.ret_f (s : State) : (s.ret).f = s.f := rfl
@[simp] theorem State.ret_b (s : State) : (s.ret).b = s.b := rfl
@[simp] theorem State.ret_c (s : State) : (s.ret).c = s.c := rfl
@[simp] theorem State.ret_d (s : State) : (s.ret).d = s.d := rfl
@[simp] theorem State.ret_e (s : State) : (s.ret).e = s.e := rfl
@[simp] theorem State.ret_h (s : State) : (s.ret).h = s.h := rfl
@[simp] theorem State.ret_l (s : State) : (s.ret).l = s.l := rfl
@[simp] theorem State.ret_sp (s : State) : (s.ret).sp = s.sp + 2 := s.pop16_state_sp
@[simp] theorem State.ret_pc (s : State) : (s.ret).pc = joinBytes s.stackHi s.stackLo := rfl
@[simp] theorem State.ret_ime (s : State) : (s.ret).ime = s.ime := rfl
@[simp] theorem State.ret_run (s : State) : (s.ret).run = s.run := rfl
@[simp] theorem State.ret_mem (s : State) : (s.ret).mem = s.mem := rfl
@[simp] theorem State.ret_bus (s : State) : (s.ret).bus = s.busAfterPop := rfl
@[simp] theorem State.ret_inputs (s : State) : (s.ret).inputs = s.inputs := rfl
@[simp] theorem State.ret_cycles (s : State) : (s.ret).cycles = s.cycles := rfl
@[simp] theorem State.ret_platform (s : State) : (s.ret).platform = s.platform := rfl

/-! ### `interruptReturn`: PC, the stack and ime (R241) -/

@[simp] theorem State.interruptReturn_a (s : State) : (s.interruptReturn).a = s.a := rfl
@[simp] theorem State.interruptReturn_f (s : State) : (s.interruptReturn).f = s.f := rfl
@[simp] theorem State.interruptReturn_b (s : State) : (s.interruptReturn).b = s.b := rfl
@[simp] theorem State.interruptReturn_c (s : State) : (s.interruptReturn).c = s.c := rfl
@[simp] theorem State.interruptReturn_d (s : State) : (s.interruptReturn).d = s.d := rfl
@[simp] theorem State.interruptReturn_e (s : State) : (s.interruptReturn).e = s.e := rfl
@[simp] theorem State.interruptReturn_h (s : State) : (s.interruptReturn).h = s.h := rfl
@[simp] theorem State.interruptReturn_l (s : State) : (s.interruptReturn).l = s.l := rfl
@[simp] theorem State.interruptReturn_sp (s : State) : (s.interruptReturn).sp = s.sp + 2 := s.pop16_state_sp
@[simp] theorem State.interruptReturn_pc (s : State) : (s.interruptReturn).pc = joinBytes s.stackHi s.stackLo := rfl
@[simp] theorem State.interruptReturn_ime (s : State) : (s.interruptReturn).ime = true := rfl
@[simp] theorem State.interruptReturn_run (s : State) : (s.interruptReturn).run = s.run := rfl
@[simp] theorem State.interruptReturn_mem (s : State) : (s.interruptReturn).mem = s.mem := rfl
@[simp] theorem State.interruptReturn_bus (s : State) : (s.interruptReturn).bus = s.busAfterPop := rfl
@[simp] theorem State.interruptReturn_inputs (s : State) : (s.interruptReturn).inputs = s.inputs := rfl
@[simp] theorem State.interruptReturn_cycles (s : State) : (s.interruptReturn).cycles = s.cycles := rfl
@[simp] theorem State.interruptReturn_platform (s : State) : (s.interruptReturn).platform = s.platform := rfl

/-! ### `interruptEntry` (R263) -/

@[simp] theorem State.interruptEntry_a (s : State) (i : Nat) : (s.interruptEntry i).a = s.a := rfl
@[simp] theorem State.interruptEntry_f (s : State) (i : Nat) : (s.interruptEntry i).f = s.f := rfl
@[simp] theorem State.interruptEntry_b (s : State) (i : Nat) : (s.interruptEntry i).b = s.b := rfl
@[simp] theorem State.interruptEntry_c (s : State) (i : Nat) : (s.interruptEntry i).c = s.c := rfl
@[simp] theorem State.interruptEntry_d (s : State) (i : Nat) : (s.interruptEntry i).d = s.d := rfl
@[simp] theorem State.interruptEntry_e (s : State) (i : Nat) : (s.interruptEntry i).e = s.e := rfl
@[simp] theorem State.interruptEntry_h (s : State) (i : Nat) : (s.interruptEntry i).h = s.h := rfl
@[simp] theorem State.interruptEntry_l (s : State) (i : Nat) : (s.interruptEntry i).l = s.l := rfl
@[simp] theorem State.interruptEntry_sp (s : State) (i : Nat) : (s.interruptEntry i).sp = s.sp - 2 := State.push16_sp _ _
@[simp] theorem State.interruptEntry_pc (s : State) (i : Nat) : (s.interruptEntry i).pc = intVector s.platform i := rfl
@[simp] theorem State.interruptEntry_ime (s : State) (i : Nat) : (s.interruptEntry i).ime = false := rfl
@[simp] theorem State.interruptEntry_run (s : State) (i : Nat) : (s.interruptEntry i).run = .running := rfl
@[simp] theorem State.interruptEntry_inputs (s : State) (i : Nat) : (s.interruptEntry i).inputs = s.inputs := rfl
@[simp] theorem State.interruptEntry_cycles (s : State) (i : Nat) : (s.interruptEntry i).cycles = s.cycles + s.platform.intEntryCycles := rfl
@[simp] theorem State.interruptEntry_platform (s : State) (i : Nat) : (s.interruptEntry i).platform = s.platform := rfl

/-! ### `boundaryPassed`: one answer of the environment used (R260) -/

@[simp] theorem State.boundaryPassed_a (s : State) : (s.boundaryPassed).a = s.a := rfl
@[simp] theorem State.boundaryPassed_f (s : State) : (s.boundaryPassed).f = s.f := rfl
@[simp] theorem State.boundaryPassed_b (s : State) : (s.boundaryPassed).b = s.b := rfl
@[simp] theorem State.boundaryPassed_c (s : State) : (s.boundaryPassed).c = s.c := rfl
@[simp] theorem State.boundaryPassed_d (s : State) : (s.boundaryPassed).d = s.d := rfl
@[simp] theorem State.boundaryPassed_e (s : State) : (s.boundaryPassed).e = s.e := rfl
@[simp] theorem State.boundaryPassed_h (s : State) : (s.boundaryPassed).h = s.h := rfl
@[simp] theorem State.boundaryPassed_l (s : State) : (s.boundaryPassed).l = s.l := rfl
@[simp] theorem State.boundaryPassed_sp (s : State) : (s.boundaryPassed).sp = s.sp := rfl
@[simp] theorem State.boundaryPassed_pc (s : State) : (s.boundaryPassed).pc = s.pc := rfl
@[simp] theorem State.boundaryPassed_ime (s : State) : (s.boundaryPassed).ime = s.ime := rfl
@[simp] theorem State.boundaryPassed_run (s : State) : (s.boundaryPassed).run = s.run := rfl
@[simp] theorem State.boundaryPassed_mem (s : State) : (s.boundaryPassed).mem = s.mem := rfl
@[simp] theorem State.boundaryPassed_bus (s : State) : (s.boundaryPassed).bus = s.bus := rfl
@[simp] theorem State.boundaryPassed_inputs (s : State) : (s.boundaryPassed).inputs = s.inputs.tail := rfl
@[simp] theorem State.boundaryPassed_cycles (s : State) : (s.boundaryPassed).cycles = s.cycles := rfl
@[simp] theorem State.boundaryPassed_platform (s : State) : (s.boundaryPassed).platform = s.platform := rfl

/-! ### `lockUp` (R270) -/

@[simp] theorem State.lockUp_a (s : State) : (s.lockUp).a = s.a := rfl
@[simp] theorem State.lockUp_f (s : State) : (s.lockUp).f = s.f := rfl
@[simp] theorem State.lockUp_b (s : State) : (s.lockUp).b = s.b := rfl
@[simp] theorem State.lockUp_c (s : State) : (s.lockUp).c = s.c := rfl
@[simp] theorem State.lockUp_d (s : State) : (s.lockUp).d = s.d := rfl
@[simp] theorem State.lockUp_e (s : State) : (s.lockUp).e = s.e := rfl
@[simp] theorem State.lockUp_h (s : State) : (s.lockUp).h = s.h := rfl
@[simp] theorem State.lockUp_l (s : State) : (s.lockUp).l = s.l := rfl
@[simp] theorem State.lockUp_sp (s : State) : (s.lockUp).sp = s.sp := rfl
@[simp] theorem State.lockUp_pc (s : State) : (s.lockUp).pc = s.pc + 1 := rfl
@[simp] theorem State.lockUp_ime (s : State) : (s.lockUp).ime = s.ime := rfl
@[simp] theorem State.lockUp_run (s : State) : (s.lockUp).run = .locked := rfl
@[simp] theorem State.lockUp_mem (s : State) : (s.lockUp).mem = s.mem := rfl
@[simp] theorem State.lockUp_bus (s : State) : (s.lockUp).bus = s.bus := rfl
@[simp] theorem State.lockUp_inputs (s : State) : (s.lockUp).inputs = s.inputs := rfl
@[simp] theorem State.lockUp_cycles (s : State) : (s.lockUp).cycles = s.cycles := rfl
@[simp] theorem State.lockUp_platform (s : State) : (s.lockUp).platform = s.platform := rfl

/-! ### `resetEvent` (R300) -/

@[simp] theorem State.resetEvent_a (s : State) : (s.resetEvent).a = s.platform.resetValues.a := rfl
@[simp] theorem State.resetEvent_f (s : State) : (s.resetEvent).f = s.platform.resetValues.f := rfl
@[simp] theorem State.resetEvent_b (s : State) : (s.resetEvent).b = s.platform.resetValues.b := rfl
@[simp] theorem State.resetEvent_c (s : State) : (s.resetEvent).c = s.platform.resetValues.c := rfl
@[simp] theorem State.resetEvent_d (s : State) : (s.resetEvent).d = s.platform.resetValues.d := rfl
@[simp] theorem State.resetEvent_e (s : State) : (s.resetEvent).e = s.platform.resetValues.e := rfl
@[simp] theorem State.resetEvent_h (s : State) : (s.resetEvent).h = s.platform.resetValues.h := rfl
@[simp] theorem State.resetEvent_l (s : State) : (s.resetEvent).l = s.platform.resetValues.l := rfl
@[simp] theorem State.resetEvent_sp (s : State) : (s.resetEvent).sp = s.platform.resetValues.sp := rfl
@[simp] theorem State.resetEvent_pc (s : State) : (s.resetEvent).pc = s.platform.resetValues.pc := rfl
@[simp] theorem State.resetEvent_ime (s : State) : (s.resetEvent).ime = s.platform.resetValues.ime := rfl
@[simp] theorem State.resetEvent_run (s : State) : (s.resetEvent).run = .running := rfl
@[simp] theorem State.resetEvent_mem (s : State) : (s.resetEvent).mem = s.mem := rfl
@[simp] theorem State.resetEvent_bus (s : State) : (s.resetEvent).bus = s.bus := rfl
@[simp] theorem State.resetEvent_inputs (s : State) : (s.resetEvent).inputs = s.inputs := rfl
@[simp] theorem State.resetEvent_cycles (s : State) : (s.resetEvent).cycles = s.cycles := rfl
@[simp] theorem State.resetEvent_platform (s : State) : (s.resetEvent).platform = s.platform := rfl

/-! ### The registers by name: what a write of one leaves in it and in the others -/

@[simp] theorem State.reg_setReg_same (s : State) (r : Reg8) (v : Byte) : (s.setReg r v).reg r = v := by
  cases r <;> rfl
@[simp] theorem State.reg_setReg_other (s : State) {r q : Reg8} (v : Byte) (h : q ≠ r) : (s.setReg r v).reg q = s.reg q := by
  cases r <;> cases q <;> first | rfl | exact absurd rfl h
@[simp] theorem State.reg_advance (s : State) (n k : Nat) (r : Reg8) : (s.advance n k).reg r = s.reg r := by
  cases r <;> rfl
@[simp] theorem State.reg_memRead (s : State) (x : Word) (r : Reg8) : (s.memRead x).2.reg r = s.reg r := by
  cases r <;> rfl
@[simp] theorem State.reg_memWrite (s : State) (x : Word) (v : Byte) (r : Reg8) : (s.memWrite x v).reg r = s.reg r := by
  cases r <;> rfl
@[simp] theorem State.hl_advance (s : State) (n k : Nat) : (s.advance n k).hl = s.hl := rfl
@[simp] theorem State.busByte_advance (s : State) (n k : Nat) (x : Word) : (s.advance n k).busByte x = s.busByte x := rfl
@[simp] theorem State.busAfterRead_advance (s : State) (n k : Nat) (x : Word) :
    (s.advance n k).busAfterRead x = s.busAfterRead x := rfl

/-! ### The two halves of a word -/

@[simp] theorem hi8_joinBytes (hi lo : Byte) : hi8 (joinBytes hi lo) = hi := by
  refine BitVec.eq_of_getLsbD_eq fun i h => ?_
  rw [hi8, joinBytes, BitVec.getLsbD_extractLsb']
  erw [BitVec.getLsbD_append]
  simp [h]
@[simp] theorem lo8_joinBytes (hi lo : Byte) : lo8 (joinBytes hi lo) = lo := by
  refine BitVec.eq_of_getLsbD_eq fun i h => ?_
  rw [lo8, joinBytes, BitVec.getLsbD_extractLsb']
  erw [BitVec.getLsbD_append]
  simp [h]
@[simp] theorem joinBytes_hi8_lo8 (v : Word) : joinBytes (hi8 v) (lo8 v) = v := by
  refine BitVec.eq_of_getLsbD_eq fun i h => ?_
  rw [joinBytes, hi8, lo8]
  erw [BitVec.getLsbD_append]
  simp only [BitVec.getLsbD_extractLsb', Nat.zero_add]
  split
  · simp_all
  · rw [show 8 + (i - 8) = i by omega]
    simp only [Bool.and_eq_right_iff_imp, decide_eq_true_eq]
    omega
theorem lo8_eq_setWidth (v : Word) : lo8 v = v.setWidth 8 := by
  refine BitVec.eq_of_toNat_eq ?_
  simp [lo8, BitVec.extractLsb'_toNat]
theorem hi8_eq_setWidth (v : Word) : hi8 v = (v >>> 8).setWidth 8 := by
  refine BitVec.eq_of_toNat_eq ?_
  simp [hi8, BitVec.extractLsb'_toNat]
@[simp] theorem State.hl_setHL (s : State) (v : Word) : (s.setHL v).hl = v := joinBytes_hi8_lo8 v
@[simp] theorem State.bc_setBC (s : State) (v : Word) : (s.setBC v).bc = v := joinBytes_hi8_lo8 v
@[simp] theorem State.de_setDE (s : State) (v : Word) : (s.setDE v).de = v := joinBytes_hi8_lo8 v
@[simp] theorem State.pairP_setPairP (s : State) (p : PairP) (v : Word) : (s.setPairP p v).pairP p = v := by
  cases p <;> first | rfl | exact joinBytes_hi8_lo8 v
@[simp] theorem Flags.ofByte_toByte (f : Flags) : Flags.ofByte f.toByte = f := by
  rcases f with ⟨z, n, h, c⟩; cases z <;> cases n <;> cases h <;> cases c <;> rfl

end Sys2Proof.Machine
end

