-- ==== Sys2Proof/Laws/Memory.lean ====
section
/-! SUPPORT. Plain memory: what a read gives after a write, and that every memory operation keeps the canonical form
(`Memory.wf`). -/

namespace Sys2Proof.Machine

/-- An address below every listed one is unlisted. -/
theorem cellsRead_below {cells : List Host.Cell} {lo a : Nat} (h : cellsWf lo cells = true) (ha : a < lo) :
    cellsRead cells a = Config.unlistedByte := by
  induction cells generalizing lo with
  | nil => rfl
  | cons kv rest ih =>
    simp only [cellsWf, Bool.and_eq_true, decide_eq_true_eq] at h
    rw [cellsRead, if_neg (by omega), ih h.2 (by omega)]

theorem cellsRead_cellsWrite_same {cells : List Host.Cell} {lo : Nat} (h : cellsWf lo cells = true) (a : Nat) (v : Byte) :
    cellsRead (cellsWrite cells a v) a = v := by
  induction cells generalizing lo with
  | nil => by_cases hv : v = Config.unlistedByte <;> simp [cellsWrite, cellsRead, hv]
  | cons kv rest ih =>
    obtain ⟨k, w⟩ := kv
    simp only [cellsWf, Bool.and_eq_true, decide_eq_true_eq] at h
    by_cases h₁ : a < k <;> by_cases h₂ : a = k <;> by_cases hv : v = Config.unlistedByte <;>
      simp only [cellsWrite, h₁, h₂, hv, ↓reduceIte, cellsRead, Nat.lt_irrefl] <;> try omega
    · rw [if_neg (by omega), cellsRead_below h.2 (by omega)]
    · exact cellsRead_below h.2 (by omega)
    · rw [if_neg (Ne.symm h₂), ← hv, ih h.2]
    · rw [if_neg (Ne.symm h₂), ih h.2]

theorem cellsRead_cellsWrite_other (cells : List Host.Cell) {a b : Nat} (h : b ≠ a) (v : Byte) :
    cellsRead (cellsWrite cells a v) b = cellsRead cells b := by
  induction cells with
  | nil => by_cases hv : v = Config.unlistedByte <;> simp [cellsWrite, cellsRead, hv, Ne.symm h]
  | cons kv rest ih =>
    obtain ⟨k, w⟩ := kv
    by_cases h₁ : a < k
    · by_cases hv : v = Config.unlistedByte <;> simp [cellsWrite, cellsRead, h₁, hv, Ne.symm h]
    · by_cases h₂ : a = k
      · subst h₂
        by_cases hv : v = Config.unlistedByte <;> simp [cellsWrite, cellsRead, hv, Ne.symm h]
      · simp only [cellsWrite, h₁, h₂, ↓reduceIte, cellsRead, ih]

theorem cellsWf_weaken {cells : List Host.Cell} {lo lo' : Nat} (h : cellsWf lo cells = true) (hl : lo' ≤ lo) :
    cellsWf lo' cells = true := by
  cases cells with
  | nil => rfl
  | cons kv rest =>
    simp only [cellsWf, Bool.and_eq_true, decide_eq_true_eq] at h ⊢
    exact ⟨⟨⟨by omega, h.1.1.2⟩, h.1.2⟩, h.2⟩

theorem cellsWf_cellsWrite {cells : List Host.Cell} {lo : Nat} (h : cellsWf lo cells = true) {a : Nat} (ha : lo ≤ a)
    (ha' : a < 65536) (v : Byte) : cellsWf lo (cellsWrite cells a v) = true := by
  induction cells generalizing lo with
  | nil =>
    by_cases hv : v = Config.unlistedByte
    · simp [cellsWrite, cellsWf, hv]
    · simp [cellsWrite, cellsWf, hv, ha, ha']
  | cons kv rest ih =>
    obtain ⟨k, w⟩ := kv
    have hw := h
    simp only [cellsWf, Bool.and_eq_true, decide_eq_true_eq] at h
    by_cases h₁ : a < k
    · by_cases hv : v = Config.unlistedByte
      · simpa only [cellsWrite, h₁, hv, ↓reduceIte] using hw
      · simp only [cellsWrite, h₁, hv, ↓reduceIte, cellsWf, Bool.and_eq_true, decide_eq_true_eq]
        exact ⟨⟨⟨ha, ha'⟩, hv⟩, ⟨⟨by omega, h.1.1.2⟩, h.1.2⟩, h.2⟩
    · by_cases h₂ : a = k
      · by_cases hv : v = Config.unlistedByte
        · simpa only [cellsWrite, h₁, h₂, hv, ↓reduceIte, Nat.lt_irrefl] using cellsWf_weaken h.2 (by omega : lo ≤ k + 1)
        · simp only [cellsWrite, h₂, hv, ↓reduceIte, Nat.lt_irrefl, cellsWf, Bool.and_eq_true, decide_eq_true_eq]
          exact ⟨⟨⟨by omega, by omega⟩, hv⟩, h.2⟩
      · simp only [cellsWrite, h₁, h₂, ↓reduceIte, cellsWf, Bool.and_eq_true, decide_eq_true_eq]
        exact ⟨h.1, ih h.2 (by omega)⟩

/-! ## Memory -/

@[simp] theorem Memory.read_write_same {m : Memory} (h : m.wf = true) (a : Word) (v : Byte) :
    (m.write a v).read a = v := cellsRead_cellsWrite_same h a.toNat v

@[simp] theorem Memory.read_write_other (m : Memory) {a b : Word} (h : b ≠ a) (v : Byte) :
    (m.write a v).read b = m.read b :=
  cellsRead_cellsWrite_other m.cells (fun e => h (BitVec.eq_of_toNat_eq e)) v

theorem Memory.wf_write {m : Memory} (h : m.wf = true) (a : Word) (v : Byte) : (m.write a v).wf = true :=
  cellsWf_cellsWrite h (Nat.zero_le _) a.isLt v

theorem Memory.wf_empty : (⟨[]⟩ : Memory).wf = true := rfl

/-! ## The operations of the state -/

theorem State.inv_afterReset (p : Platform) : (State.afterReset p).Inv := rfl

theorem State.inv_memWrite {s : State} (h : s.Inv) (a : Word) (v : Byte) : (s.memWrite a v).Inv := by
  simp only [State.Inv, State.memWrite_mem] at h ⊢
  split
  · exact h
  · exact Memory.wf_write h a v

theorem State.inv_of_mem {s t : State} (h : s.Inv) (e : t.mem = s.mem) : t.Inv := by
  rw [State.Inv, e]; exact h

theorem State.inv_memWrite2 {s : State} (h : s.Inv) (a v : Word) : (s.memWrite2 a v).Inv :=
  State.inv_memWrite (State.inv_memWrite h _ _) _ _

theorem State.inv_push16 {s : State} (h : s.Inv) (v : Word) : (s.push16 v).Inv :=
  State.inv_memWrite
    (State.inv_of_mem
      (State.inv_memWrite (State.inv_of_mem h (t := { s with sp := s.sp - 1 }) rfl) _ _)
      (t := { ({ s with sp := s.sp - 1 } : State).memWrite (s.sp - 1) (hi8 v) with sp := s.sp - 1 - 1 }) rfl)
    _ _

theorem State.inv_interruptEntry {s : State} (h : s.Inv) (i : Nat) : (s.interruptEntry i).Inv :=
  State.inv_of_mem
    (State.inv_push16 (State.inv_of_mem h (t := { s with ime := false, bus := .ack i :: s.bus }) rfl) s.pc) rfl

theorem State.inv_placeFetchWord {s : State} (h : s.Inv) (nbits w : Nat) : (s.placeFetchWord nbits w).Inv :=
  Memory.wf_write (Memory.wf_write (Memory.wf_write h _ _) _ _) _ _

/-! ## What stores leave behind -/

theorem State.stores_none (s : State) : Stores s s [] := ⟨fun _ => rfl, rfl⟩

/-- One byte stored: the lemma for `State.memWrite`. -/
theorem State.stores_memWrite {s t : State} {ws : List (Word × Byte)} (hi : t.Inv) (hp : t.platform = s.platform)
    (h : Stores s t ws) (a : Word) (v : Byte) : Stores s (t.memWrite a v) ((a, v) :: ws) := by
  refine ⟨fun x => ?_, ?_⟩
  · rw [State.memWrite_mem, hp, storedByte]
    cases ho : platformOwns s.platform a
    · by_cases hx : x = a
      · subst hx; simp [Memory.read_write_same hi]
      · simp [hx, Memory.read_write_other _ hx, h.1 x]
    · simp [h.1 x]
  · rw [State.memWrite_bus, hp, busAfterWrites, h.2]

/-- `Push16` (R58): the high byte at SP - 1, then the low byte at SP - 2. -/
theorem State.stores_push16 {s : State} (hi : s.Inv) (v : Word) :
    Stores s (s.push16 v) [(s.sp - 2, lo8 v), (s.sp - 1, hi8 v)] := by
  have e : s.sp - 2 = s.sp - 1 - 1 := by bv_omega
  have h₁ := State.stores_memWrite (s := s) (t := { s with sp := s.sp - 1 }) hi rfl (State.stores_none s) (s.sp - 1) (hi8 v)
  have h₂ := State.stores_memWrite (s := s)
    (t := { ({ s with sp := s.sp - 1 } : State).memWrite (s.sp - 1) (hi8 v) with sp := s.sp - 1 - 1 })
    (State.inv_memWrite (s := { s with sp := s.sp - 1 }) hi _ _) rfl h₁ (s.sp - 1 - 1) (lo8 v)
  rw [e]; exact h₂

/-- `MemWrite(addr, 2, v)` (R57): the low byte, then the high byte at the next address. -/
theorem State.stores_memWrite2 {s : State} (hi : s.Inv) (a v : Word) :
    Stores s (s.memWrite2 a v) [(a + 1, hi8 v), (a, lo8 v)] :=
  State.stores_memWrite (s := s) (State.inv_memWrite hi a (lo8 v)) rfl
    (State.stores_memWrite hi rfl (State.stores_none s) a (lo8 v)) (a + 1) (hi8 v)

end Sys2Proof.Machine
end

