-- ==== Sys2Proof/Laws/Ops.lean ====
section
/-! SUPPORT. For each shared operation, one lemma that says once everything it does; and what a boundary and a step can
answer. -/

namespace Sys2Proof.Machine

/-! ## Reads, writes and the stack -/

theorem State.memRead_spec (s : State) (x : Word) : s.memRead x = (s.busByte x, s.afterRead x) := rfl

theorem State.memWrite_spec {s : State} (hi : s.Inv) (x : Word) (v : Byte) :
    s.memWrite x v = { s with mem := (s.memWrite x v).mem, bus := (s.memWrite x v).bus } ∧ Stores s (s.memWrite x v) [(x, v)] :=
  ⟨rfl, State.stores_memWrite hi rfl (State.stores_none s) x v⟩

theorem State.memWrite2_spec {s : State} (hi : s.Inv) (x v : Word) :
    s.memWrite2 x v = { s with mem := (s.memWrite2 x v).mem, bus := (s.memWrite2 x v).bus } ∧
      Stores s (s.memWrite2 x v) [(x + 1, hi8 v), (x, lo8 v)] :=
  ⟨rfl, State.stores_memWrite2 hi x v⟩

theorem State.push16_spec {s : State} (hi : s.Inv) (v : Word) :
    s.push16 v = { s with sp := s.sp - 2, mem := (s.push16 v).mem, bus := (s.push16 v).bus } ∧
      Stores s (s.push16 v) [(s.sp - 2, lo8 v), (s.sp - 1, hi8 v)] := by
  refine ⟨?_, State.stores_push16 hi v⟩
  rw [← State.push16_sp s v]; rfl

theorem State.pop16_spec (s : State) :
    s.pop16 = (joinBytes s.stackHi s.stackLo, { s with sp := s.sp + 2, bus := s.busAfterPop }) := by
  rw [← State.pop16_state_sp s]; rfl

/-! ## The operand forms -/

theorem State.source_spec (s : State) (x : Source8) :
    s.source x = match x with
      | .reg r => (s.reg r, s)
      | .hl => (s.busByte s.hl, s.afterRead s.hl)
      | .imm n => (n, s) := by
  cases x <;> rfl

theorem State.aluA_spec (s : State) (o : AluOp) (x : Source8) :
    s.aluA o x = { (s.source x).2 with
      a := (alu o s.a (s.source x).1 s.f).1, f := (alu o s.a (s.source x).1 s.f).2 } := by
  cases x <;> rfl

theorem State.modify_reg_spec (s : State) (r : Reg8) (g : Byte → Flags → Byte × Flags) :
    s.modify (.reg r) g = { s.setReg r (g (s.reg r) s.f).1 with f := (g (s.reg r) s.f).2 } := rfl

theorem State.modify_hl_spec {s : State} (hi : s.Inv) (g : Byte → Flags → Byte × Flags) :
    s.modify .hl g = { s with
        f := (g (s.busByte s.hl) s.f).2, mem := (s.modify .hl g).mem, bus := (s.modify .hl g).bus } ∧
      Stores (s.afterRead s.hl) (s.modify .hl g) [(s.hl, (g (s.busByte s.hl) s.f).1)] :=
  ⟨rfl, State.stores_memWrite (s := s.afterRead s.hl) (t := s.afterRead s.hl) hi rfl (State.stores_none _) s.hl
    (g (s.busByte s.hl) s.f).1⟩

theorem State.modifyA_spec (s : State) (g : Byte → Flags → Byte × Flags) :
    s.modifyA g = { s with a := (g s.a s.f).1, f := (g s.a s.f).2 } := rfl

theorem State.testBit_spec (s : State) (k : BitVec 3) (x : Place8) :
    s.testBit k x = match x with
      | .reg r => { s with f := bitFlags k (s.reg r) s.f }
      | .hl => { s with f := bitFlags k (s.busByte s.hl) s.f, bus := s.busAfterRead s.hl } := by
  cases x <;> rfl

theorem State.loadReg_spec (s : State) (r : Reg8) (x : Word) :
    s.loadReg r x = (s.afterRead x).setReg r (s.busByte x) := rfl

theorem State.call_spec {s : State} (hi : s.Inv) (t : Word) :
    s.call t = { s with sp := s.sp - 2, pc := t, mem := (s.call t).mem, bus := (s.call t).bus } ∧
      Stores s (s.call t) [(s.sp - 2, lo8 s.pc), (s.sp - 1, hi8 s.pc)] := by
  refine ⟨?_, State.stores_push16 hi s.pc⟩
  rw [← State.call_sp s t]; rfl

theorem State.ret_spec (s : State) :
    s.ret = { s with pc := joinBytes s.stackHi s.stackLo, sp := s.sp + 2, bus := s.busAfterPop } := by
  rw [← State.ret_sp s]; rfl

/-! ## Interrupts -/

theorem State.interruptEntry_spec {s : State} (hi : s.Inv) (i : Nat) :
    s.interruptEntry i = { s with
        ime := false, sp := s.sp - 2, pc := intVector s.platform i, run := .running
        cycles := s.cycles + s.platform.intEntryCycles, mem := (s.interruptEntry i).mem, bus := (s.interruptEntry i).bus } ∧
      Stores { s with bus := .ack i :: s.bus } (s.interruptEntry i) [(s.sp - 2, lo8 s.pc), (s.sp - 1, hi8 s.pc)] := by
  refine ⟨?_, State.stores_push16 (s := { s with ime := false, bus := .ack i :: s.bus }) hi s.pc⟩
  rw [← State.interruptEntry_sp s i]; rfl

theorem State.interruptReturn_spec (s : State) :
    s.interruptReturn = { s with
      pc := joinBytes s.stackHi s.stackLo, sp := s.sp + 2, ime := true, bus := s.busAfterPop } := by
  rw [← State.interruptReturn_sp s]; rfl

/-! ## Sums -/

theorem add8_res (a b : Byte) (cin : Bool) : (add8 a b cin).res = a + b + (if cin then 1 else 0) := by
  apply BitVec.eq_of_toNat_eq
  cases cin <;> simp [add8, BitVec.toNat_add]

theorem sub8_res (a b : Byte) (cin : Bool) : (sub8 a b cin).res = a - b - (if cin then 1 else 0) := by
  apply BitVec.eq_of_toNat_eq
  have := a.isLt
  have := b.isLt
  cases cin <;> simp only [sub8, BitVec.toNat_ofInt, BitVec.toNat_sub, Bool.toNat_false, Bool.toNat_true, ↓reduceIte,
    BitVec.reduceToNat, Bool.false_eq_true] <;> omega

/-- An 8-bit sum is exact once its carry is counted. -/
theorem add8_exact (a b : Byte) (cin : Bool) :
    (add8 a b cin).res.toNat + 256 * (add8 a b cin).c.toNat = a.toNat + b.toNat + cin.toNat := by
  have := a.isLt
  have := b.isLt
  have hc : cin.toNat ≤ 1 := Bool.toNat_le cin
  by_cases h : a.toNat + b.toNat + cin.toNat > 0xFF <;> simp [add8, h] <;> omega

/-- An 8-bit difference is exact once its borrow is counted. -/
theorem sub8_exact (a b : Byte) (cin : Bool) :
    (sub8 a b cin).res.toNat + b.toNat + cin.toNat = a.toNat + 256 * (sub8 a b cin).c.toNat := by
  have := a.isLt
  have := b.isLt
  have hc : cin.toNat ≤ 1 := Bool.toNat_le cin
  by_cases h : (a.toNat : Int) - b.toNat - cin.toNat < 0 <;> simp [sub8, h] <;> omega

/-! ## The boundary and the step -/

/-- A running CPU takes a pending interrupt that ime allows, and executes otherwise (R260 (5), (6)). -/
theorem State.acceptOrExecute_cases (s : State) (p : Option Nat) :
    (∃ i, p = some i ∧ s.ime = true ∧ s.acceptOrExecute p = .ends (s.interruptEntry i)) ∨
    ((p = none ∨ s.ime = false) ∧ s.acceptOrExecute p = .executes s) := by
  rcases p with _ | i
  · exact .inr ⟨.inl rfl, rfl⟩
  · cases h : s.ime
    · exact .inr ⟨.inr rfl, by simp [State.acceptOrExecute, h]⟩
    · exact .inl ⟨i, rfl, rfl, by simp [State.acceptOrExecute, h]⟩

/-- A halted CPU stays halted, or goes on as a running one because something is pending (R268). -/
theorem State.wakeTest_cases (s : State) (p : Option Nat) :
    ((p = none ∨ (s.ime = false ∧ s.platform.haltWakeIme0 = false)) ∧ s.wakeTest p = .ends s) ∨
    (p ≠ none ∧ (s.ime = true ∨ s.platform.haltWakeIme0 = true) ∧
      s.wakeTest p = ({ s with run := .running } : State).acceptOrExecute p) := by
  rcases p with _ | i
  · exact .inl ⟨.inl rfl, rfl⟩
  · cases hm : s.ime <;> cases hw : s.platform.haltWakeIme0
    · exact .inl ⟨.inr ⟨rfl, rfl⟩, by simp [State.wakeTest, hm, hw]⟩
    · exact .inr ⟨nofun, .inr rfl, by simp [State.wakeTest, hm, hw]⟩
    · exact .inr ⟨nofun, .inl rfl, by simp [State.wakeTest, hm]⟩
    · exact .inr ⟨nofun, .inl rfl, by simp [State.wakeTest, hm]⟩

theorem State.boundary_reset {s : State} (h : s.boundaryInput.reset = true) :
    s.boundary = .ends s.boundaryPassed.resetEvent := by
  simp [State.boundary, h]

theorem State.boundary_running {s : State} (h : s.boundaryInput.reset = false) (hr : s.run = .running) :
    s.boundary = s.boundaryPassed.acceptOrExecute s.boundaryInput.pending := by
  simp [State.boundary, h, hr]

theorem State.boundary_halted {s : State} (h : s.boundaryInput.reset = false) (hr : s.run = .halted) :
    s.boundary = s.boundaryPassed.wakeTest s.boundaryInput.pending := by
  simp [State.boundary, h, hr]

theorem State.boundary_idle {s : State} (h : s.boundaryInput.reset = false) (hr : s.run = .locked ∨ s.run = .stopped) :
    s.boundary = .ends s.boundaryPassed := by
  rcases hr with hr | hr <;> simp [State.boundary, h, hr]

/-- What a boundary can do: reset, take an interrupt, execute, or nothing. -/
theorem State.boundary_cases (s : State) :
    s.boundary = .ends s.boundaryPassed.resetEvent ∨
    (∃ i r, s.boundary = .ends (State.interruptEntry { s.boundaryPassed with run := r } i)) ∨
    (∃ r, s.boundary = .executes { s.boundaryPassed with run := r }) ∨
    s.boundary = .ends s.boundaryPassed := by
  cases h : s.boundaryInput.reset
  case true => exact .inl (State.boundary_reset h)
  cases hr : s.run
  case running =>
    rw [State.boundary_running h hr]
    rcases s.boundaryPassed.acceptOrExecute_cases s.boundaryInput.pending with ⟨i, -, -, e⟩ | ⟨-, e⟩
    · exact .inr (.inl ⟨i, s.boundaryPassed.run, e⟩)
    · exact .inr (.inr (.inl ⟨s.boundaryPassed.run, e⟩))
  case halted =>
    rw [State.boundary_halted h hr]
    rcases s.boundaryPassed.wakeTest_cases s.boundaryInput.pending with ⟨-, e⟩ | ⟨-, -, e⟩
    · exact .inr (.inr (.inr e))
    · rw [e]
      rcases State.acceptOrExecute_cases { s.boundaryPassed with run := .running } s.boundaryInput.pending with
        ⟨i, -, -, e⟩ | ⟨-, e⟩
      · exact .inr (.inl ⟨i, .running, e⟩)
      · exact .inr (.inr (.inl ⟨.running, e⟩))
  case stopped => exact .inr (.inr (.inr (State.boundary_idle h (.inr hr))))
  case locked => exact .inr (.inr (.inr (State.boundary_idle h (.inl hr))))

/-- What a step can answer: what the boundary ends with, or what the fetched instruction answers. -/
theorem step_cases (s : State) :
    (∃ t, s.boundary = .ends t ∧ step s = .next t) ∨
    ∃ t, s.boundary = .executes t ∧ step s = exec t.fetch.1 t.fetch.2 := by
  rw [step]
  cases h : s.boundary with
  | ends t => exact .inl ⟨t, rfl, rfl⟩
  | executes t => exact .inr ⟨t, rfl, rfl⟩

/-- The fetch changes nothing but the bus history of its reads. -/
theorem State.fetch_state (s : State) : s.fetch.2 = { s with bus := s.fetch.2.bus } := by
  simp only [State.fetch]
  split
  · rfl
  · split <;> rfl

end Sys2Proof.Machine
end

