-- ==== Sys2Proof/Laws/PerInstr.lean ====
section
/-! SUPPORT. The family EncodedLength: an instruction's encoding is as long as its first byte says (R80, R93). The prefix row
is left out: the encoding of that row is the prefix byte alone (log 17). -/

namespace Sys2Proof.Laws.EncodedLength

/-- The encoding of `i` has a first byte, and as many bytes as the first byte asks for. -/
def Statement (i : Instr) : Prop :=
  i ≠ .cbPrefix → ∃ op rest, encode i = op :: rest ∧ rest.length + 1 = instrLength op

theorem rst_length (t : Word) : ∃ op rest, encode (.rst t) = op :: rest ∧ rest.length + 1 = instrLength op := by
  have h : ∀ y : BitVec 3, instrLength (opY 0b11#2 y 0b111#3) = 1 := by decide
  exact ⟨_, _, rfl, (h (rstCode t)).symm⟩

theorem ldRR (r s : Reg8) : Statement (.ldRR r s) := fun _ => by cases r <;> cases s <;> exact ⟨_, _, rfl, rfl⟩
theorem ldHLR (s : Reg8) : Statement (.ldHLR s) := fun _ => by cases s <;> exact ⟨_, _, rfl, rfl⟩
theorem ldRHL (r : Reg8) : Statement (.ldRHL r) := fun _ => by cases r <;> exact ⟨_, _, rfl, rfl⟩
theorem ldRN (r : Reg8) (n : Byte) : Statement (.ldRN r n) := fun _ => by cases r <;> exact ⟨_, _, rfl, rfl⟩
theorem ldHLN (n : Byte) : Statement (.ldHLN n) := fun _ => ⟨_, _, rfl, rfl⟩
theorem ldBCA : Statement .ldBCA := fun _ => ⟨_, _, rfl, rfl⟩
theorem ldABC : Statement .ldABC := fun _ => ⟨_, _, rfl, rfl⟩
theorem ldDEA : Statement .ldDEA := fun _ => ⟨_, _, rfl, rfl⟩
theorem ldADE : Statement .ldADE := fun _ => ⟨_, _, rfl, rfl⟩
theorem ldHLIA : Statement .ldHLIA := fun _ => ⟨_, _, rfl, rfl⟩
theorem ldAHLI : Statement .ldAHLI := fun _ => ⟨_, _, rfl, rfl⟩
theorem ldHLDA : Statement .ldHLDA := fun _ => ⟨_, _, rfl, rfl⟩
theorem ldAHLD : Statement .ldAHLD := fun _ => ⟨_, _, rfl, rfl⟩
theorem ldNNA (nn : Word) : Statement (.ldNNA nn) := fun _ => ⟨_, _, rfl, rfl⟩
theorem ldANN (nn : Word) : Statement (.ldANN nn) := fun _ => ⟨_, _, rfl, rfl⟩
theorem ldNA (n : Byte) : Statement (.ldNA n) := fun _ => ⟨_, _, rfl, rfl⟩
theorem ldAN (n : Byte) : Statement (.ldAN n) := fun _ => ⟨_, _, rfl, rfl⟩
theorem ldCA : Statement .ldCA := fun _ => ⟨_, _, rfl, rfl⟩
theorem ldAC : Statement .ldAC := fun _ => ⟨_, _, rfl, rfl⟩
theorem ldPpNN (p : PairP) (nn : Word) : Statement (.ldPpNN p nn) := fun _ => by cases p <;> exact ⟨_, _, rfl, rfl⟩
theorem ldNNSP (nn : Word) : Statement (.ldNNSP nn) := fun _ => ⟨_, _, rfl, rfl⟩
theorem ldSPHL : Statement .ldSPHL := fun _ => ⟨_, _, rfl, rfl⟩
theorem popQq (q : PairQ) : Statement (.popQq q) := fun _ => by cases q <;> exact ⟨_, _, rfl, rfl⟩
theorem pushQq (q : PairQ) : Statement (.pushQq q) := fun _ => by cases q <;> exact ⟨_, _, rfl, rfl⟩
theorem incPp (p : PairP) : Statement (.incPp p) := fun _ => by cases p <;> exact ⟨_, _, rfl, rfl⟩
theorem decPp (p : PairP) : Statement (.decPp p) := fun _ => by cases p <;> exact ⟨_, _, rfl, rfl⟩
theorem addHLPp (p : PairP) : Statement (.addHLPp p) := fun _ => by cases p <;> exact ⟨_, _, rfl, rfl⟩
theorem addSPE (e : Byte) : Statement (.addSPE e) := fun _ => ⟨_, _, rfl, rfl⟩
theorem ldhlSPE (e : Byte) : Statement (.ldhlSPE e) := fun _ => ⟨_, _, rfl, rfl⟩
theorem incR (r : Reg8) : Statement (.incR r) := fun _ => by cases r <;> exact ⟨_, _, rfl, rfl⟩
theorem incHL : Statement .incHL := fun _ => ⟨_, _, rfl, rfl⟩
theorem decR (r : Reg8) : Statement (.decR r) := fun _ => by cases r <;> exact ⟨_, _, rfl, rfl⟩
theorem decHL : Statement .decHL := fun _ => ⟨_, _, rfl, rfl⟩
theorem addAR (s : Reg8) : Statement (.addAR s) := fun _ => by cases s <;> exact ⟨_, _, rfl, rfl⟩
theorem addAHL : Statement .addAHL := fun _ => ⟨_, _, rfl, rfl⟩
theorem addAN (n : Byte) : Statement (.addAN n) := fun _ => ⟨_, _, rfl, rfl⟩
theorem adcAR (s : Reg8) : Statement (.adcAR s) := fun _ => by cases s <;> exact ⟨_, _, rfl, rfl⟩
theorem adcAHL : Statement .adcAHL := fun _ => ⟨_, _, rfl, rfl⟩
theorem adcAN (n : Byte) : Statement (.adcAN n) := fun _ => ⟨_, _, rfl, rfl⟩
theorem subR (s : Reg8) : Statement (.subR s) := fun _ => by cases s <;> exact ⟨_, _, rfl, rfl⟩
theorem subHL : Statement .subHL := fun _ => ⟨_, _, rfl, rfl⟩
theorem subN (n : Byte) : Statement (.subN n) := fun _ => ⟨_, _, rfl, rfl⟩
theorem sbcAR (s : Reg8) : Statement (.sbcAR s) := fun _ => by cases s <;> exact ⟨_, _, rfl, rfl⟩
theorem sbcAHL : Statement .sbcAHL := fun _ => ⟨_, _, rfl, rfl⟩
theorem sbcAN (n : Byte) : Statement (.sbcAN n) := fun _ => ⟨_, _, rfl, rfl⟩
theorem cpR (s : Reg8) : Statement (.cpR s) := fun _ => by cases s <;> exact ⟨_, _, rfl, rfl⟩
theorem cpHL : Statement .cpHL := fun _ => ⟨_, _, rfl, rfl⟩
theorem cpN (n : Byte) : Statement (.cpN n) := fun _ => ⟨_, _, rfl, rfl⟩
theorem andR (s : Reg8) : Statement (.andR s) := fun _ => by cases s <;> exact ⟨_, _, rfl, rfl⟩
theorem andHL : Statement .andHL := fun _ => ⟨_, _, rfl, rfl⟩
theorem andN (n : Byte) : Statement (.andN n) := fun _ => ⟨_, _, rfl, rfl⟩
theorem xorR (s : Reg8) : Statement (.xorR s) := fun _ => by cases s <;> exact ⟨_, _, rfl, rfl⟩
theorem xorHL : Statement .xorHL := fun _ => ⟨_, _, rfl, rfl⟩
theorem xorN (n : Byte) : Statement (.xorN n) := fun _ => ⟨_, _, rfl, rfl⟩
theorem orR (s : Reg8) : Statement (.orR s) := fun _ => by cases s <;> exact ⟨_, _, rfl, rfl⟩
theorem orHL : Statement .orHL := fun _ => ⟨_, _, rfl, rfl⟩
theorem orN (n : Byte) : Statement (.orN n) := fun _ => ⟨_, _, rfl, rfl⟩
theorem daa : Statement .daa := fun _ => ⟨_, _, rfl, rfl⟩
theorem rlca : Statement .rlca := fun _ => ⟨_, _, rfl, rfl⟩
theorem rrca : Statement .rrca := fun _ => ⟨_, _, rfl, rfl⟩
theorem rla : Statement .rla := fun _ => ⟨_, _, rfl, rfl⟩
theorem rra : Statement .rra := fun _ => ⟨_, _, rfl, rfl⟩
theorem rlR (s : Reg8) : Statement (.rlR s) := fun _ => by cases s <;> exact ⟨_, _, rfl, rfl⟩
theorem rlHL : Statement .rlHL := fun _ => ⟨_, _, rfl, rfl⟩
theorem rlcR (s : Reg8) : Statement (.rlcR s) := fun _ => by cases s <;> exact ⟨_, _, rfl, rfl⟩
theorem rlcHL : Statement .rlcHL := fun _ => ⟨_, _, rfl, rfl⟩
theorem rrR (s : Reg8) : Statement (.rrR s) := fun _ => by cases s <;> exact ⟨_, _, rfl, rfl⟩
theorem rrHL : Statement .rrHL := fun _ => ⟨_, _, rfl, rfl⟩
theorem rrcR (s : Reg8) : Statement (.rrcR s) := fun _ => by cases s <;> exact ⟨_, _, rfl, rfl⟩
theorem rrcHL : Statement .rrcHL := fun _ => ⟨_, _, rfl, rfl⟩
theorem slaR (s : Reg8) : Statement (.slaR s) := fun _ => by cases s <;> exact ⟨_, _, rfl, rfl⟩
theorem slaHL : Statement .slaHL := fun _ => ⟨_, _, rfl, rfl⟩
theorem sraR (s : Reg8) : Statement (.sraR s) := fun _ => by cases s <;> exact ⟨_, _, rfl, rfl⟩
theorem sraHL : Statement .sraHL := fun _ => ⟨_, _, rfl, rfl⟩
theorem srlR (s : Reg8) : Statement (.srlR s) := fun _ => by cases s <;> exact ⟨_, _, rfl, rfl⟩
theorem srlHL : Statement .srlHL := fun _ => ⟨_, _, rfl, rfl⟩
theorem swapR (s : Reg8) : Statement (.swapR s) := fun _ => by cases s <;> exact ⟨_, _, rfl, rfl⟩
theorem swapHL : Statement .swapHL := fun _ => ⟨_, _, rfl, rfl⟩
theorem bitR (k : BitVec 3) (s : Reg8) : Statement (.bitR k s) := fun _ => ⟨_, _, rfl, rfl⟩
theorem bitHL (k : BitVec 3) : Statement (.bitHL k) := fun _ => ⟨_, _, rfl, rfl⟩
theorem resR (k : BitVec 3) (s : Reg8) : Statement (.resR k s) := fun _ => ⟨_, _, rfl, rfl⟩
theorem resHL (k : BitVec 3) : Statement (.resHL k) := fun _ => ⟨_, _, rfl, rfl⟩
theorem setR (k : BitVec 3) (s : Reg8) : Statement (.setR k s) := fun _ => ⟨_, _, rfl, rfl⟩
theorem setHL (k : BitVec 3) : Statement (.setHL k) := fun _ => ⟨_, _, rfl, rfl⟩
theorem cpl : Statement .cpl := fun _ => ⟨_, _, rfl, rfl⟩
theorem rst (t : Word) : Statement (.rst t) := fun _ => rst_length t
theorem callNN (nn : Word) : Statement (.callNN nn) := fun _ => ⟨_, _, rfl, rfl⟩
theorem callCcNN (cc : Cond) (nn : Word) : Statement (.callCcNN cc nn) := fun _ => by cases cc <;> exact ⟨_, _, rfl, rfl⟩
theorem jpNN (nn : Word) : Statement (.jpNN nn) := fun _ => ⟨_, _, rfl, rfl⟩
theorem jpHL : Statement .jpHL := fun _ => ⟨_, _, rfl, rfl⟩
theorem jpCcNN (cc : Cond) (nn : Word) : Statement (.jpCcNN cc nn) := fun _ => by cases cc <;> exact ⟨_, _, rfl, rfl⟩
theorem jrE (e : Byte) : Statement (.jrE e) := fun _ => ⟨_, _, rfl, rfl⟩
theorem jrCcE (cc : Cond) (e : Byte) : Statement (.jrCcE cc e) := fun _ => by cases cc <;> exact ⟨_, _, rfl, rfl⟩
theorem ret : Statement .ret := fun _ => ⟨_, _, rfl, rfl⟩
theorem retCc (cc : Cond) : Statement (.retCc cc) := fun _ => by cases cc <;> exact ⟨_, _, rfl, rfl⟩
theorem reti : Statement .reti := fun _ => ⟨_, _, rfl, rfl⟩
theorem di : Statement .di := fun _ => ⟨_, _, rfl, rfl⟩
theorem ei : Statement .ei := fun _ => ⟨_, _, rfl, rfl⟩
theorem halt : Statement .halt := fun _ => ⟨_, _, rfl, rfl⟩
theorem stop (x : Byte) : Statement (.stop x) := fun _ => ⟨_, _, rfl, rfl⟩
theorem nop : Statement .nop := fun _ => ⟨_, _, rfl, rfl⟩
theorem scf : Statement .scf := fun _ => ⟨_, _, rfl, rfl⟩
theorem ccf : Statement .ccf := fun _ => ⟨_, _, rfl, rfl⟩
theorem cbPrefix : Statement .cbPrefix := fun h => absurd rfl h
theorem unusedD3 : Statement .unusedD3 := fun _ => ⟨_, _, rfl, rfl⟩
theorem unusedDB : Statement .unusedDB := fun _ => ⟨_, _, rfl, rfl⟩
theorem unusedDD : Statement .unusedDD := fun _ => ⟨_, _, rfl, rfl⟩
theorem unusedE3 : Statement .unusedE3 := fun _ => ⟨_, _, rfl, rfl⟩
theorem unusedE4 : Statement .unusedE4 := fun _ => ⟨_, _, rfl, rfl⟩
theorem unusedEB : Statement .unusedEB := fun _ => ⟨_, _, rfl, rfl⟩
theorem unusedEC : Statement .unusedEC := fun _ => ⟨_, _, rfl, rfl⟩
theorem unusedED : Statement .unusedED := fun _ => ⟨_, _, rfl, rfl⟩
theorem unusedF4 : Statement .unusedF4 := fun _ => ⟨_, _, rfl, rfl⟩
theorem unusedFC : Statement .unusedFC := fun _ => ⟨_, _, rfl, rfl⟩
theorem unusedFD : Statement .unusedFD := fun _ => ⟨_, _, rfl, rfl⟩

end Sys2Proof.Laws.EncodedLength
end

