-- ==== Sys2Proof/Tests/Slice0.lean ====
section
/-! SUPPORT. The model's own tests: the well-formedness smoke test, decoded words of every constructor, one-step tests whose
expected results are the Examples of the instruction rules, and for every statement with hypotheses a state that meets
them. -/

namespace Sys2Proof.Tests

open Sys2Proof.Machine

/-! ## Helpers -/

/-- The bytes are exactly the one instruction. -/
def decodesTo (p : List Byte × Instr) : Bool :=
  match decode p.1 with
  | .ok (i, []) => decide (i = p.2)
  | _ => false

/-- Up to three instruction bytes stored at PC. -/
def put (bs : List Byte) (s : State) : State :=
  { s with mem := ((s.mem.write s.pc (bs.getD 0 0)).write (s.pc + 1) (bs.getD 1 0)).write (s.pc + 2) (bs.getD 2 0) }

/-- What is seen of the state after one step over the given bytes. -/
def after {α : Type} (bs : List Byte) (s : State) (f : State → α) : Option α :=
  match step (put bs s) with
  | .next t => some (f t)
  | _ => none

/-- The reset state with PC at 8000h, where the rules' examples stand. -/
def base : State := { State.reset with pc := 0x8000 }

/-- Memory with one byte in it. -/
def cellAt (x : Word) (v : Byte) : Memory := Memory.write ⟨[]⟩ x v

/-- The flags with only CF set. -/
def cy : Flags := ⟨false, false, false, true⟩

/-- The reset state on a platform whose FF00h page is not plain memory. -/
def onDevices : State := { base with platform := { Platform.initial with ranges := [⟨0xFF00, 0xFFFF⟩] } }

/-- A state with one answer of the environment to come. -/
def asked (s : State) (reset : Bool) (pending : Option Nat) : State := { s with inputs := [⟨reset, pending⟩] }

/-! ## Well-formedness: the one check, an RST target that is not one of the eight -/

theorem test_rst_target_refused :
    (Instr.rst 0x0001#16).wellFormed = false ∧ (Instr.rst 0x0040#16).wellFormed = false ∧ (Instr.rst 0x0138#16).wellFormed = false := by
  decide

theorem test_rst_targets_accepted :
    List.all [0x00#16, 0x08#16, 0x10#16, 0x18#16, 0x20#16, 0x28#16, 0x30#16, 0x38#16] (fun t => (Instr.rst t).wellFormed) = true := by
  decide

/-! ## Decoding -/

/-- Words of the load group, bit by bit from the Encoding lines of its rules. -/
theorem test_decode_load : List.all (α := List Byte × Instr) [
    ([0b01000001#8], .ldRR .b .c),
    ([0b01111111#8], .ldRR .a .a),
    ([0b01110100#8], .ldHLR .h),
    ([0b01100110#8], .ldRHL .h),
    ([0b00111110#8, 0b01111111#8], .ldRN .a 0x7F#8),
    ([0b00110110#8, 0b11111111#8], .ldHLN 0xFF#8),
    ([0b00000010#8], .ldBCA),
    ([0b00001010#8], .ldABC),
    ([0b00010010#8], .ldDEA),
    ([0b00011010#8], .ldADE),
    ([0b00100010#8], .ldHLIA),
    ([0b00101010#8], .ldAHLI),
    ([0b00110010#8], .ldHLDA),
    ([0b00111010#8], .ldAHLD),
    ([0b11101010#8, 0b00110100#8, 0b00010010#8], .ldNNA 0x1234#16),
    ([0b11111010#8, 0b00110100#8, 0b00010010#8], .ldANN 0x1234#16),
    ([0b11100000#8, 0b10000000#8], .ldNA 0x80#8),
    ([0b11110000#8, 0b10000000#8], .ldAN 0x80#8),
    ([0b11100010#8], .ldCA),
    ([0b11110010#8], .ldAC),
    ([0b00110001#8, 0b11111110#8, 0b11111111#8], .ldPpNN .sp 0xFFFE#16),
    ([0b00001000#8, 0b00000000#8, 0b11000001#8], .ldNNSP 0xC100#16),
    ([0b11111001#8], .ldSPHL),
    ([0b11110001#8], .popQq .af),
    ([0b11010101#8], .pushQq .de)] decodesTo = true := by decide

/-- Words of the arith16 group, bit by bit from the Encoding lines of its rules. -/
theorem test_decode_arith16 : List.all (α := List Byte × Instr) [
    ([0b00110011#8], .incPp .sp),
    ([0b00001011#8], .decPp .bc),
    ([0b00101001#8], .addHLPp .hl),
    ([0b11101000#8, 0b11111111#8], .addSPE 0xFF#8),
    ([0b11111000#8, 0b00000010#8], .ldhlSPE 0x02#8)] decodesTo = true := by decide

/-- Words of the alu group, bit by bit from the Encoding lines of its rules. -/
theorem test_decode_alu : List.all (α := List Byte × Instr) [
    ([0b00000100#8], .incR .b),
    ([0b00110100#8], .incHL),
    ([0b00111101#8], .decR .a),
    ([0b00110101#8], .decHL),
    ([0b10000000#8], .addAR .b),
    ([0b10000110#8], .addAHL),
    ([0b11000110#8, 0b11111111#8], .addAN 0xFF#8),
    ([0b10001011#8], .adcAR .e),
    ([0b10001110#8], .adcAHL),
    ([0b11001110#8, 0b00111011#8], .adcAN 0x3B#8),
    ([0b10010011#8], .subR .e),
    ([0b10010110#8], .subHL),
    ([0b11010110#8, 0b00001111#8], .subN 0x0F#8),
    ([0b10011100#8], .sbcAR .h),
    ([0b10011110#8], .sbcAHL),
    ([0b11011110#8, 0b00111010#8], .sbcAN 0x3A#8),
    ([0b10111000#8], .cpR .b),
    ([0b10111110#8], .cpHL),
    ([0b11111110#8, 0b00111100#8], .cpN 0x3C#8),
    ([0b10100101#8], .andR .l),
    ([0b10100110#8], .andHL),
    ([0b11100110#8, 0b00111000#8], .andN 0x38#8),
    ([0b10101111#8], .xorR .a),
    ([0b10101110#8], .xorHL),
    ([0b11101110#8, 0b00001111#8], .xorN 0x0F#8),
    ([0b10110111#8], .orR .a),
    ([0b10110110#8], .orHL),
    ([0b11110110#8, 0b00000011#8], .orN 0x03#8),
    ([0b00100111#8], .daa)] decodesTo = true := by decide

/-- Words of the rot group, bit by bit from the Encoding lines of its rules. -/
theorem test_decode_rot : List.all (α := List Byte × Instr) [
    ([0b00000111#8], .rlca),
    ([0b00001111#8], .rrca),
    ([0b00010111#8], .rla),
    ([0b00011111#8], .rra),
    ([0b11001011#8, 0b00010101#8], .rlR .l),
    ([0b11001011#8, 0b00010110#8], .rlHL),
    ([0b11001011#8, 0b00000000#8], .rlcR .b),
    ([0b11001011#8, 0b00000110#8], .rlcHL),
    ([0b11001011#8, 0b00011111#8], .rrR .a),
    ([0b11001011#8, 0b00011110#8], .rrHL),
    ([0b11001011#8, 0b00001001#8], .rrcR .c),
    ([0b11001011#8, 0b00001110#8], .rrcHL),
    ([0b11001011#8, 0b00100010#8], .slaR .d),
    ([0b11001011#8, 0b00100110#8], .slaHL),
    ([0b11001011#8, 0b00101111#8], .sraR .a),
    ([0b11001011#8, 0b00101110#8], .sraHL),
    ([0b11001011#8, 0b00111111#8], .srlR .a),
    ([0b11001011#8, 0b00111110#8], .srlHL),
    ([0b11001011#8, 0b00110111#8], .swapR .a),
    ([0b11001011#8, 0b00110110#8], .swapHL)] decodesTo = true := by decide

/-- Words of the bitwise group, bit by bit from the Encoding lines of its rules. -/
theorem test_decode_bitwise : List.all (α := List Byte × Instr) [
    ([0b11001011#8, 0b01100101#8], .bitR 4#3 .l),
    ([0b11001011#8, 0b01110110#8], .bitHL 6#3),
    ([0b11001011#8, 0b10111101#8], .resR 7#3 .l),
    ([0b11001011#8, 0b10011110#8], .resHL 3#3),
    ([0b11001011#8, 0b11000000#8], .setR 0#3 .b),
    ([0b11001011#8, 0b11011110#8], .setHL 3#3),
    ([0b00101111#8], .cpl)] decodesTo = true := by decide

/-- Words of the control flow group, bit by bit from the Encoding lines of its rules. -/
theorem test_decode_control_flow : List.all (α := List Byte × Instr) [
    ([0b11101111#8], .rst 0x0028#16),
    ([0b11111111#8], .rst 0x0038#16),
    ([0b11001101#8, 0b00110100#8, 0b00010010#8], .callNN 0x1234#16),
    ([0b11000100#8, 0b00110100#8, 0b00010010#8], .callCcNN .nz 0x1234#16),
    ([0b11000011#8, 0b01010000#8, 0b00000001#8], .jpNN 0x0150#16),
    ([0b11101001#8], .jpHL),
    ([0b11011010#8, 0b00000000#8, 0b10010000#8], .jpCcNN .c 0x9000#16),
    ([0b00011000#8, 0b10000000#8], .jrE 0x80#8),
    ([0b00110000#8, 0b11111010#8], .jrCcE .nc 0xFA#8),
    ([0b11001001#8], .ret),
    ([0b11001000#8], .retCc .z),
    ([0b11011001#8], .reti)] decodesTo = true := by decide

/-- Words of the cpu control group, bit by bit from the Encoding lines of its rules. -/
theorem test_decode_cpu_control : List.all (α := List Byte × Instr) [
    ([0b11110011#8], .di),
    ([0b11111011#8], .ei),
    ([0b01110110#8], .halt),
    ([0b00010000#8, 0b01011010#8], .stop 0x5A#8),
    ([0b00000000#8], .nop),
    ([0b00110111#8], .scf),
    ([0b00111111#8], .ccf)] decodesTo = true := by decide

/-- Words of the prefix and unused group, bit by bit from the Encoding lines of its rules. -/
theorem test_decode_prefix_and_unused : List.all (α := List Byte × Instr) [
    ([0b11001011#8], .cbPrefix),
    ([0b11010011#8], .unusedD3),
    ([0b11011011#8], .unusedDB),
    ([0b11011101#8], .unusedDD),
    ([0b11100011#8], .unusedE3),
    ([0b11100100#8], .unusedE4),
    ([0b11101011#8], .unusedEB),
    ([0b11101100#8], .unusedEC),
    ([0b11101101#8], .unusedED),
    ([0b11110100#8], .unusedF4),
    ([0b11111100#8], .unusedFC),
    ([0b11111101#8], .unusedFD)] decodesTo = true := by decide

/-- Too few bytes, and none. -/
theorem test_decode_truncated :
    (match decode [0xC3#8, 0x00#8], decode [] with
     | .error (.truncated 0xC3), .error .noBytes => true
     | _, _ => false) = true := by decide

/-- Opcode-table words in both orders of their bytes: JP nn with zeros, CB 00000000 (RLC B), and a one-byte row. -/
theorem test_table_words :
    decodeTableWord 24 0xC30000 = some (.jpNN 0#16) ∧ decodeTableWord 24 0x0000C3 = some (.jpNN 0#16) ∧
    decodeTableWord 16 0x00CB = some (.rlcR .b) ∧ decodeTableWord 16 0xCB11 = some (.rlR .c) ∧ decodeTableWord 8 0x76 = some .halt := by
  decide

/-! ## One step -/

/-- R111. -/
theorem test_ld_r_r : after [0x41#8] { base with b := 0x12, c := 0x34 } (fun t => (t.b, t.c, t.pc)) = some (0x34, 0x34, 0x8001) := by decide

/-- R112. -/
theorem test_ld_hl_r : after [0x74#8] { base with h := 0xC0, l := 0xC0 } (fun t => t.mem.read 0xC0C0) = some 0xC0 := by decide

/-- R113: the old HL is the address. -/
theorem test_ld_r_hl : after [0x66#8] { base with h := 0xC0, l := 0x00, mem := cellAt 0xC000 0x12 } (fun t => (t.h, t.l)) = some (0x12, 0x00) := by decide

/-- R114. -/
theorem test_ld_r_n : after [0x06#8, 0x7F#8] base (fun t => (t.b, t.pc)) = some (0x7F, 0x8002) := by decide

/-- R115. -/
theorem test_ld_hl_n : after [0x36#8, 0xFF#8] { base with h := 0xC1, l := 0x23 } (fun t => (t.mem.read 0xC123, t.cycles)) = some (0xFF, 3) := by decide

/-- R116. -/
theorem test_ld_bc_a : after [0x02#8] { base with b := 0xC0, c := 0x10, a := 0x99 } (fun t => t.mem.read 0xC010) = some 0x99 := by decide

/-- R117. -/
theorem test_ld_a_bc : after [0x0A#8] { base with b := 0xC0, c := 0x10, mem := cellAt 0xC010 0x99 } (fun t => t.a) = some 0x99 := by decide

/-- R118. -/
theorem test_ld_de_a : after [0x12#8] { base with d := 0xC2, e := 0x20, a := 0x01 } (fun t => t.mem.read 0xC220) = some 0x01 := by decide

/-- R119. -/
theorem test_ld_a_de : after [0x1A#8] { base with d := 0xC2, e := 0x20, mem := cellAt 0xC220 0x01 } (fun t => t.a) = some 0x01 := by decide

/-- R120: the wrap of HL. -/
theorem test_ld_hli_a : after [0x22#8] { base with h := 0xFF, l := 0xFF, a := 0x55 } (fun t => (t.mem.read 0xFFFF, t.h, t.l)) = some (0x55, 0x00, 0x00) := by decide

/-- R121. -/
theorem test_ld_a_hli : after [0x2A#8] { base with h := 0xC0, l := 0x00, mem := cellAt 0xC000 0x77 } (fun t => (t.a, t.h, t.l)) = some (0x77, 0xC0, 0x01) := by decide

/-- R122: the wrap of HL. -/
theorem test_ld_hld_a : after [0x32#8] { base with a := 0xAA } (fun t => (t.mem.read 0x0000, t.h, t.l)) = some (0xAA, 0xFF, 0xFF) := by decide

/-- R123. -/
theorem test_ld_a_hld : after [0x3A#8] { base with h := 0xC0, l := 0x01, mem := cellAt 0xC001 0x42 } (fun t => (t.a, t.h, t.l)) = some (0x42, 0xC0, 0x00) := by decide

/-- R124. -/
theorem test_ld_nn_a : after [0xEA#8, 0x34#8, 0x12#8] { base with a := 0x5A } (fun t => (t.mem.read 0x1234, t.pc)) = some (0x5A, 0x8003) := by decide

/-- R125. -/
theorem test_ld_a_nn : after [0xFA#8, 0x34#8, 0x12#8] { base with mem := cellAt 0x1234 0x5A } (fun t => t.a) = some 0x5A := by decide

/-- R126. -/
theorem test_ld_n_a : after [0xE0#8, 0x80#8] { base with a := 0x3C } (fun t => t.mem.read 0xFF80) = some 0x3C := by decide

/-- R127. -/
theorem test_ld_a_n : after [0xF0#8, 0x80#8] { base with mem := cellAt 0xFF80 0x3C } (fun t => t.a) = some 0x3C := by decide

/-- R128: B plays no part. -/
theorem test_ld_c_a : after [0xE2#8] { base with a := 0x3C, b := 0x12, c := 0x80 } (fun t => t.mem.read 0xFF80) = some 0x3C := by decide

/-- R129. -/
theorem test_ld_a_c : after [0xF2#8] { base with c := 0x80, mem := cellAt 0xFF80 0x3C } (fun t => t.a) = some 0x3C := by decide

/-- R130. -/
theorem test_ld_pp_nn : after [0x21#8, 0x34#8, 0x12#8] base (fun t => (t.h, t.l)) = some (0x12, 0x34) := by decide

/-- R131. -/
theorem test_ld_nn_sp : after [0x08#8, 0x00#8, 0xC1#8] { base with sp := 0xFFF8 } (fun t => (t.mem.read 0xC100, t.mem.read 0xC101, t.sp)) = some (0xF8, 0xFF, 0xFFF8) := by decide

/-- R132. -/
theorem test_ld_sp_hl : after [0xF9#8] { base with h := 0xDF, l := 0xF0 } (fun t => t.sp) = some 0xDFF0 := by decide

/-- R133. -/
theorem test_pop_bc : after [0xC1#8] { base with sp := 0xCFFE, mem := (cellAt 0xCFFE 0x34).write 0xCFFF 0x12 } (fun t => (t.b, t.c, t.sp)) = some (0x12, 0x34, 0xD000) := by decide

/-- R133: bits 3..0 dropped. -/
theorem test_pop_af : after [0xF1#8] { base with sp := 0xCFFE, mem := (cellAt 0xCFFE 0xFF).write 0xCFFF 0x12 } (fun t => (t.a, t.f.toByte)) = some (0x12, 0xF0) := by decide

/-- R134. -/
theorem test_push_bc : after [0xC5#8] { base with b := 0x12, c := 0x34, sp := 0xD000 } (fun t => (t.mem.read 0xCFFF, t.mem.read 0xCFFE, t.sp)) = some (0x12, 0x34, 0xCFFE) := by decide

/-- R134: SP = 0001h. -/
theorem test_push_wraps : after [0xE5#8] { base with h := 0x12, l := 0x34, sp := 0x0001 } (fun t => (t.mem.read 0x0000, t.mem.read 0xFFFF, t.sp)) = some (0x12, 0x34, 0xFFFF) := by decide

/-- R141. -/
theorem test_inc_bc_wraps : after [0x03#8] { base with b := 0xFF, c := 0xFF } (fun t => (t.b, t.c, t.f.z)) = some (0x00, 0x00, false) := by decide

/-- R142. -/
theorem test_dec_bc_wraps : after [0x0B#8] base (fun t => (t.b, t.c)) = some (0xFF, 0xFF) := by decide

/-- R143. -/
theorem test_add_hl_bc : after [0x09#8] { base with h := 0x8A, l := 0x23, b := 0x06, c := 0x05 } (fun t => (t.h, t.l, t.f)) = some (0x90, 0x28, ⟨false, false, true, false⟩) := by decide

/-- R143. -/
theorem test_add_hl_hl : after [0x29#8] { base with h := 0x8A, l := 0x23 } (fun t => (t.h, t.l, t.f)) = some (0x14, 0x46, ⟨false, false, true, true⟩) := by decide

/-- R144. -/
theorem test_add_sp_e : after [0xE8#8, 0x08#8] { base with sp := 0xFFF8 } (fun t => (t.sp, t.f)) = some (0x0000, ⟨false, false, true, true⟩) := by decide

/-- R144. -/
theorem test_add_sp_minus_one : after [0xE8#8, 0xFF#8] { base with sp := 0xD000 } (fun t => (t.sp, t.f.h, t.f.c)) = some (0xCFFF, false, false) := by decide

/-- R145. -/
theorem test_ldhl_sp_e : after [0xF8#8, 0x02#8] { base with sp := 0xFFF8 } (fun t => (t.h, t.l, t.sp)) = some (0xFF, 0xFA, 0xFFF8) := by decide

/-- R152. -/
theorem test_inc_r : after [0x04#8] { base with b := 0xFF } (fun t => (t.b, t.f)) = some (0x00, ⟨true, false, true, false⟩) := by decide

/-- R153. -/
theorem test_inc_hl : after [0x34#8] { base with h := 0xC0, mem := cellAt 0xC000 0xFF } (fun t => (t.mem.read 0xC000, t.f.z, t.f.h)) = some (0x00, true, true) := by decide

/-- R154. -/
theorem test_dec_r : after [0x05#8] { base with b := 0x10 } (fun t => (t.b, t.f)) = some (0x0F, ⟨false, true, true, false⟩) := by decide

/-- R155. -/
theorem test_dec_hl : after [0x35#8] { base with h := 0xC0 } (fun t => (t.mem.read 0xC000, t.f)) = some (0xFF, ⟨false, true, true, false⟩) := by decide

/-- R156. -/
theorem test_add_a_r : after [0x80#8] { base with a := 0x3A, b := 0xC6 } (fun t => (t.a, t.f)) = some (0x00, ⟨true, false, true, true⟩) := by decide

/-- R157. -/
theorem test_add_a_hl : after [0x86#8] { base with a := 0x3C, h := 0xC0, mem := cellAt 0xC000 0x12 } (fun t => (t.a, t.f)) = some (0x4E, ⟨false, false, false, false⟩) := by decide

/-- R158. -/
theorem test_add_a_n : after [0xC6#8, 0xFF#8] { base with a := 0x3C } (fun t => (t.a, t.f)) = some (0x3B, ⟨false, false, true, true⟩) := by decide

/-- R159. -/
theorem test_adc_a_r : after [0x8B#8] { base with a := 0xE1, e := 0x0F, f := cy } (fun t => (t.a, t.f)) = some (0xF1, ⟨false, false, true, false⟩) := by decide

/-- R162. -/
theorem test_sub_r : after [0x93#8] { base with a := 0x3E, e := 0x3E } (fun t => (t.a, t.f)) = some (0x00, ⟨true, true, false, false⟩) := by decide

/-- R163. -/
theorem test_sub_hl : after [0x96#8] { base with a := 0x3E, h := 0xC0, mem := cellAt 0xC000 0x40 } (fun t => (t.a, t.f)) = some (0xFE, ⟨false, true, false, true⟩) := by decide

/-- R164. -/
theorem test_sub_n : after [0xD6#8, 0x0F#8] { base with a := 0x3E } (fun t => (t.a, t.f)) = some (0x2F, ⟨false, true, true, false⟩) := by decide

/-- R165. -/
theorem test_sbc_a_r : after [0x9C#8] { base with a := 0x3B, h := 0x2A, f := cy } (fun t => (t.a, t.f)) = some (0x10, ⟨false, true, false, false⟩) := by decide

/-- R166. -/
theorem test_sbc_a_hl : after [0x9E#8] { base with a := 0x3B, h := 0xC0, mem := cellAt 0xC000 0x4F, f := cy } (fun t => (t.a, t.f)) = some (0xEB, ⟨false, true, true, true⟩) := by decide

/-- R167. -/
theorem test_sbc_a_n : after [0xDE#8, 0x3A#8] { base with a := 0x3B, f := cy } (fun t => (t.a, t.f)) = some (0x00, ⟨true, true, false, false⟩) := by decide

/-- R168. -/
theorem test_cp_r : after [0xB8#8] { base with a := 0x3C, b := 0x2F } (fun t => (t.a, t.f)) = some (0x3C, ⟨false, true, true, false⟩) := by decide

/-- R169. -/
theorem test_cp_hl : after [0xBE#8] { base with a := 0x3C, h := 0xC0, mem := cellAt 0xC000 0x40 } (fun t => (t.a, t.f)) = some (0x3C, ⟨false, true, false, true⟩) := by decide

/-- R170. -/
theorem test_cp_n : after [0xFE#8, 0x3C#8] { base with a := 0x3C } (fun t => (t.a, t.f)) = some (0x3C, ⟨true, true, false, false⟩) := by decide

/-- R171. -/
theorem test_and_r : after [0xA5#8] { base with a := 0x5A, l := 0x3F } (fun t => (t.a, t.f)) = some (0x1A, ⟨false, false, true, false⟩) := by decide

/-- R172. -/
theorem test_and_hl : after [0xA6#8] { base with a := 0x5A, h := 0xC0 } (fun t => (t.a, t.f)) = some (0x00, ⟨true, false, true, false⟩) := by decide

/-- R173. -/
theorem test_and_n : after [0xE6#8, 0x38#8] { base with a := 0x5A } (fun t => (t.a, t.f)) = some (0x18, ⟨false, false, true, false⟩) := by decide

/-- R174. -/
theorem test_xor_r : after [0xAF#8] { base with a := 0xFF, f := cy } (fun t => (t.a, t.f)) = some (0x00, ⟨true, false, false, false⟩) := by decide

/-- R175. -/
theorem test_xor_hl : after [0xAE#8] { base with a := 0xFF, h := 0xC0, mem := cellAt 0xC000 0x8A } (fun t => (t.a, t.f.z)) = some (0x75, false) := by decide

/-- R176. -/
theorem test_xor_n : after [0xEE#8, 0x0F#8] { base with a := 0xFF } (fun t => (t.a, t.f.z)) = some (0xF0, false) := by decide

/-- R177. -/
theorem test_or_r : after [0xB7#8] { base with a := 0x5A, f := cy } (fun t => (t.a, t.f)) = some (0x5A, ⟨false, false, false, false⟩) := by decide

/-- R178. -/
theorem test_or_hl : after [0xB6#8] { base with a := 0x5A, h := 0xC0, mem := cellAt 0xC000 0x0F } (fun t => t.a) = some 0x5F := by decide

/-- R179. -/
theorem test_or_n : after [0xF6#8, 0x03#8] { base with a := 0x5A } (fun t => t.a) = some 0x5B := by decide

/-- R180. -/
theorem test_daa_after_add : after [0x27#8] { base with a := 0x7D } (fun t => (t.a, t.f)) = some (0x83, ⟨false, false, false, false⟩) := by decide

/-- R180. -/
theorem test_daa_after_sub : after [0x27#8] { base with a := 0x4B, f := ⟨false, true, true, false⟩ } (fun t => (t.a, t.f)) = some (0x45, ⟨false, true, false, false⟩) := by decide

/-- R191. -/
theorem test_rlca : after [0x07#8] { base with a := 0x85, f := ⟨true, false, false, false⟩ } (fun t => (t.a, t.f)) = some (0x0B, ⟨false, false, false, true⟩) := by decide

/-- R192. -/
theorem test_rrca : after [0x0F#8] { base with a := 0x3B } (fun t => (t.a, t.f)) = some (0x9D, ⟨false, false, false, true⟩) := by decide

/-- R193. -/
theorem test_rla : after [0x17#8] { base with a := 0x95, f := cy } (fun t => (t.a, t.f)) = some (0x2B, ⟨false, false, false, true⟩) := by decide

/-- R194. -/
theorem test_rra : after [0x1F#8] { base with a := 0x81 } (fun t => (t.a, t.f)) = some (0x40, ⟨false, false, false, true⟩) := by decide

/-- R195. -/
theorem test_rl_r : after [0xCB#8, 0x15#8] { base with l := 0x80 } (fun t => (t.l, t.f)) = some (0x00, ⟨true, false, false, true⟩) := by decide

/-- R196. -/
theorem test_rl_hl : after [0xCB#8, 0x16#8] { base with h := 0xC0, mem := cellAt 0xC000 0x11 } (fun t => (t.mem.read 0xC000, t.cycles)) = some (0x22, 4) := by decide

/-- R197. -/
theorem test_rlc_r : after [0xCB#8, 0x00#8] { base with b := 0x85 } (fun t => (t.b, t.f)) = some (0x0B, ⟨false, false, false, true⟩) := by decide

/-- R198. -/
theorem test_rlc_hl : after [0xCB#8, 0x06#8] { base with h := 0xC0, f := cy } (fun t => (t.mem.read 0xC000, t.f)) = some (0x00, ⟨true, false, false, false⟩) := by decide

/-- R199. -/
theorem test_rr_r : after [0xCB#8, 0x1F#8] { base with a := 0x01 } (fun t => (t.a, t.f)) = some (0x00, ⟨true, false, false, true⟩) := by decide

/-- R200. -/
theorem test_rr_hl : after [0xCB#8, 0x1E#8] { base with h := 0xC0, mem := cellAt 0xC000 0x8A } (fun t => t.mem.read 0xC000) = some 0x45 := by decide

/-- R201. -/
theorem test_rrc_r : after [0xCB#8, 0x09#8] { base with c := 0x01 } (fun t => (t.c, t.f.c)) = some (0x80, true) := by decide

/-- R202. -/
theorem test_rrc_hl : after [0xCB#8, 0x0E#8] { base with h := 0xC0 } (fun t => t.f) = some ⟨true, false, false, false⟩ := by decide

/-- R203. -/
theorem test_sla_r : after [0xCB#8, 0x22#8] { base with d := 0x80 } (fun t => (t.d, t.f)) = some (0x00, ⟨true, false, false, true⟩) := by decide

/-- R204. -/
theorem test_sla_hl : after [0xCB#8, 0x26#8] { base with h := 0xC0, mem := cellAt 0xC000 0xFF } (fun t => (t.mem.read 0xC000, t.f.c)) = some (0xFE, true) := by decide

/-- R205. -/
theorem test_sra_r : after [0xCB#8, 0x2F#8] { base with a := 0x8A } (fun t => (t.a, t.f.c)) = some (0xC5, false) := by decide

/-- R206. -/
theorem test_sra_hl : after [0xCB#8, 0x2E#8] { base with h := 0xC0, mem := cellAt 0xC000 0x01 } (fun t => (t.mem.read 0xC000, t.f)) = some (0x00, ⟨true, false, false, true⟩) := by decide

/-- R207. -/
theorem test_srl_r : after [0xCB#8, 0x3F#8] { base with a := 0x01 } (fun t => (t.a, t.f)) = some (0x00, ⟨true, false, false, true⟩) := by decide

/-- R208. -/
theorem test_srl_hl : after [0xCB#8, 0x3E#8] { base with h := 0xC0, mem := cellAt 0xC000 0xFF } (fun t => (t.mem.read 0xC000, t.f.c)) = some (0x7F, true) := by decide

/-- R209: the carry is cleared. -/
theorem test_swap_r : after [0xCB#8, 0x37#8] { base with a := 0xF1, f := cy } (fun t => (t.a, t.f)) = some (0x1F, ⟨false, false, false, false⟩) := by decide

/-- R210. -/
theorem test_swap_hl : after [0xCB#8, 0x36#8] { base with h := 0xC0, mem := cellAt 0xC000 0xF0 } (fun t => t.mem.read 0xC000) = some 0x0F := by decide

/-- R220: CF unchanged. -/
theorem test_bit_r : after [0xCB#8, 0x65#8] { base with l := 0xEF, f := cy } (fun t => (t.l, t.f)) = some (0xEF, ⟨true, false, true, true⟩) := by decide

/-- R221. -/
theorem test_bit_hl : after [0xCB#8, 0x4E#8] { base with h := 0xC0, mem := cellAt 0xC000 0xFE } (fun t => (t.f.z, t.cycles)) = some (false, 3) := by decide

/-- R222: ZF unchanged. -/
theorem test_res_r : after [0xCB#8, 0xBD#8] { base with l := 0x80 } (fun t => (t.l, t.f.z)) = some (0x00, false) := by decide

/-- R223. -/
theorem test_res_hl : after [0xCB#8, 0x9E#8] { base with h := 0xC0, mem := cellAt 0xC000 0xFF } (fun t => t.mem.read 0xC000) = some 0xF7 := by decide

/-- R224. -/
theorem test_set_r : after [0xCB#8, 0xC0#8] { base with b := 0x10 } (fun t => t.b) = some 0x11 := by decide

/-- R225. -/
theorem test_set_hl : after [0xCB#8, 0xDE#8] { base with h := 0xC0 } (fun t => t.mem.read 0xC000) = some 0x08 := by decide

/-- R226: ZF and CF unchanged. -/
theorem test_cpl : after [0x2F#8] { base with a := 0x35, f := cy } (fun t => (t.a, t.f)) = some (0xCA, ⟨false, true, true, true⟩) := by decide

/-- R231. -/
theorem test_rst : after [0xEF#8] { base with sp := 0xFFFE } (fun t => (t.mem.read 0xFFFD, t.mem.read 0xFFFC, t.sp, t.pc)) = some (0x80, 0x01, 0xFFFC, 0x0028) := by decide

/-- R232. -/
theorem test_call : after [0xCD#8, 0x34#8, 0x12#8] { base with sp := 0xFFFE } (fun t => (t.mem.read 0xFFFD, t.mem.read 0xFFFC, t.sp, t.pc)) = some (0x80, 0x03, 0xFFFC, 0x1234) := by decide

/-- R233. -/
theorem test_call_nz_not_taken : after [0xC4#8, 0x34#8, 0x12#8] { base with sp := 0xFFFE, f := ⟨true, false, false, false⟩ } (fun t => (t.sp, t.pc, t.cycles)) = some (0xFFFE, 0x8003, 3) := by decide

/-- R234. -/
theorem test_jp_nn : after [0xC3#8, 0x50#8, 0x01#8] base (fun t => t.pc) = some 0x0150 := by decide

/-- R235. -/
theorem test_jp_hl : after [0xE9#8] { base with h := 0xC1, l := 0x23 } (fun t => t.pc) = some 0xC123 := by decide

/-- R236. -/
theorem test_jp_c : after [0xDA#8, 0x00#8, 0x90#8] { base with f := cy } (fun t => (t.pc, t.cycles)) = some (0x9000, 4) := by decide

/-- R236. -/
theorem test_jp_c_not_taken : after [0xDA#8, 0x00#8, 0x90#8] base (fun t => (t.pc, t.cycles)) = some (0x8003, 3) := by decide

/-- R237. -/
theorem test_jr_e : after [0x18#8, 0x80#8] base (fun t => t.pc) = some 0x7F82 := by decide

/-- R238. -/
theorem test_jr_nz : after [0x20#8, 0xFA#8] base (fun t => (t.pc, t.cycles)) = some (0x7FFC, 3) := by decide

/-- R239. -/
theorem test_ret : after [0xC9#8] { base with sp := 0xFFFC, mem := (cellAt 0xFFFC 0x03).write 0xFFFD 0x80 } (fun t => (t.pc, t.sp)) = some (0x8003, 0xFFFE) := by decide

/-- R240. -/
theorem test_ret_z : after [0xC8#8] { base with f := ⟨true, false, false, false⟩, sp := 0xFFFC, mem := (cellAt 0xFFFC 0x03).write 0xFFFD 0x80 } (fun t => (t.pc, t.cycles)) = some (0x8003, 5) := by decide

/-- R241. -/
theorem test_reti : after [0xD9#8] { base with sp := 0xFFFC, mem := (cellAt 0xFFFC 0x03).write 0xFFFD 0x80 } (fun t => (t.pc, t.sp, t.ime)) = some (0x8003, 0xFFFE, true) := by decide

/-- R250. -/
theorem test_di : after [0xF3#8] { base with ime := true } (fun t => (t.ime, t.pc)) = some (false, 0x8001) := by decide

/-- R251. -/
theorem test_ei : after [0xFB#8] base (fun t => (t.ime, t.pc)) = some (true, 0x8001) := by decide

/-- R252. -/
theorem test_halt : after [0x76#8] base (fun t => (t.run, t.pc)) = some (RunState.halted, 0x8001) := by decide

/-- R253: the second byte is ignored. -/
theorem test_stop : after [0x10#8, 0x5A#8] base (fun t => (t.run, t.pc)) = some (RunState.stopped, 0x8002) := by decide

/-- R254. -/
theorem test_nop : after [0x00#8] base (fun t => t.pc) = some 0x8001 := by decide

/-- R255. -/
theorem test_scf : after [0x37#8] { base with f := ⟨true, true, true, false⟩ } (fun t => t.f) = some ⟨true, false, false, true⟩ := by decide

/-- R256. -/
theorem test_ccf : after [0x3F#8] { base with f := ⟨true, true, false, true⟩ } (fun t => t.f) = some ⟨true, false, true, false⟩ := by decide

/-- R270: not a prefix. -/
theorem test_unused_dd : after [0xDD#8, 0x21#8] base (fun t => (t.run, t.pc)) = some (RunState.locked, 0x8001) := by decide

/-- `withFetchWord` makes the next step run the word. -/
theorem test_with_fetch_word :
    (match step (State.reset.withFetchWord 16 0x3E7F) with
     | .next t => some (t.a, t.pc)
     | _ => none) = some (0x7F, 0x0002) := by decide

/-- R263: an interrupt taken with SP = FFFEh. -/
theorem test_interrupt_entry :
    (match step (asked { base with ime := true, sp := 0xFFFE, platform := { Platform.initial with vectors := [(2, 0x0050)] } } false (some 2)) with
     | .next t => some (t.pc, t.sp, t.ime, t.mem.read 0xFFFD, t.mem.read 0xFFFC)
     | _ => none) = some (0x0050, 0xFFFC, false, 0x80, 0x00) := by decide

/-- R260: reset wins over everything and ends the lock-up. -/
theorem test_reset_ends_lock_up :
    (match step (asked { base with run := .locked, a := 0x12 } true (some 2)) with
     | .next t => some (t.run, t.a, t.pc)
     | _ => none) = some (.running, 0x00, 0x0000) := by decide

/-- R268: a halted CPU with ime = 1 takes the interrupt; the address after the HALT is pushed. -/
theorem test_halt_ends_with_the_interrupt :
    (match step (asked { base with run := .halted, ime := true, pc := 0x8001, sp := 0xFFFE } false (some 0)) with
     | .next t => some (t.run, t.mem.read 0xFFFC)
     | _ => none) = some (.running, 0x01) := by decide

/-- R52: a store to a device changes no plain memory and is told to the bus. -/
theorem test_device_store :
    after [0xE0#8, 0x80#8] { onDevices with a := 0x3C } (fun t => (t.bus, t.mem.read 0xFF80)) =
      some ([.write 0xFF80 0x3C], 0x00) := by decide

/-! ## Witnesses: a state and operands that meet the hypotheses of each statement -/

theorem test_witness_ResetEventStep : (asked { base with run := .stopped } true none).boundaryInput.reset = true := by decide

theorem test_witness_PairTables : PairP.sp ≠ PairP.hl ∧ PairQ.af ≠ PairQ.bc := by decide

theorem test_witness_MemoryReadAfterWrite :
    onDevices.Inv ∧ onDevices.plain 0xFEFF ∧ platformOwns onDevices.platform 0xFF00 = true ∧ (0xFEFE#16 : Word) ≠ 0xFEFF := by
  exact ⟨rfl, rfl, rfl, by decide⟩

theorem test_witness_DecodeOfEncode : (Instr.rst 0x0038#16).wellFormed = true ∧ Instr.rst 0x0038#16 ≠ .cbPrefix := by decide

theorem test_witness_UnusedOpcodes : Instr.unusedD3 ∈ unusedInstrs ∧ Instr.unusedFD ∈ unusedInstrs := by decide

/-- Instructions of the eight forms, fetched. -/
theorem test_witness_ImmediateLowByteFirst :
    (put [0xCD#8, 0x34#8, 0x12#8] base).fetch.1 = .callNN 0x1234#16 ∧
    (put [0x31#8, 0xFE#8, 0xFF#8] base).fetch.1 = .ldPpNN .sp 0xFFFE#16 ∧
    (put [0xDA#8, 0x00#8, 0x90#8] base).fetch.1 = .jpCcNN .c 0x9000#16 := by
  decide

theorem test_witness_StepRunsDecoded :
    (put [0x18#8, 0x05#8] base).executesNow ∧
    (∀ k, k < instrLength ((put [0x18#8, 0x05#8] base).mem.read 0x8000) → (put [0x18#8, 0x05#8] base).plain (0x8000 + BitVec.ofNat 16 k)) ∧
    decodesTo ([0x18#8, 0x05#8], .jrE 0x05#8) = true := by
  exact ⟨⟨rfl, rfl, .inl rfl⟩, fun _ _ => rfl, by decide⟩

theorem test_witness_FetchReadsExactly :
    instrLength ((put [0x00#8] base).busByte 0x8000) = 1 ∧ instrLength ((put [0xCB#8] base).busByte 0x8000) = 2 ∧
    instrLength ((put [0xFA#8] base).busByte 0x8000) = 3 := by
  decide

theorem test_witness_OneByteStores : base.Inv ∧ onDevices.Inv := ⟨rfl, rfl⟩

theorem test_witness_StoreStackPointer : State.Inv { base with sp := 0xFFF8 } := rfl

theorem test_witness_PopLoadsPair : base.plain base.sp ∧ base.plain (base.sp + 1) := ⟨rfl, rfl⟩

theorem test_witness_PushStoresPair :
    base.Inv ∧ (PairQ.bc, base.b, base.c) ∈ [(PairQ.bc, base.b, base.c), (.de, base.d, base.e), (.hl, base.h, base.l), (.af, base.a, base.f.toByte)] :=
  ⟨rfl, by decide⟩

theorem test_witness_StackRoundTrips : base.Inv ∧ base.plain (base.sp - 1) ∧ base.plain (base.sp - 2) := ⟨rfl, rfl, rfl⟩

theorem test_witness_WordAdditions :
    (⟨false, false, true, true⟩ : Flags) =
      ⟨false, false, decide ((0xFFF8#16).toNat % 16 + (0x08#8).toNat % 16 ≥ 16), decide ((0xFFF8#16).toNat % 256 + (0x08#8).toNat ≥ 256)⟩ := by
  decide

theorem test_witness_IncDecBytes : State.Inv { base with h := 0xC0, mem := cellAt 0xC000 0xFF } := by
  rw [State.Inv]; decide

theorem test_witness_DecimalAdjust :
    let s : State := { base with a := 0x9A }
    ((true = true ↔ s.f.h = true ∨ s.a.toNat % 16 > 9) ∧ (true = true ↔ s.f.c = true ∨ s.a.toNat > 0x99)) ∧
    (0x00#8 : Byte) = if s.f.n then s.a - 0x06 - 0x60 else s.a + 0x06 + 0x60 := by
  decide

theorem test_witness_DecimalAdjustIsDecimal : bcdValid 0x99#8 = true ∧ bcdValid 0x00#8 = true := by decide

theorem test_witness_RotatesThroughCarryAndCircular : base.Inv := rfl

theorem test_witness_ShiftsAndSwap : State.Inv { base with mem := cellAt 0x0000 0x80 } := by
  rw [State.Inv]; decide

theorem test_witness_ResetAndSetBit : base.Inv ∧ 0 < 8 ∧ 7 < 8 := ⟨rfl, by decide, by decide⟩

/-- Each disjunct of the first clause, and the second clause. -/
theorem test_witness_CallsPushReturnAddress :
    base.Inv ∧ State.Inv { base with f := cy } ∧ State.cond { base with f := cy } .c = true ∧ base.cond .c = false :=
  ⟨rfl, rfl, rfl, rfl⟩

/-- A state for each clause: something pending, nothing pending, ime = 0. -/
theorem test_witness_InterruptEnable :
    ((asked base false (some 0)).run = .running ∧ (asked base false (some 0)).boundaryInput = ⟨false, some 0⟩ ∧
      (asked base false (some 0)).ime = false) ∧
    (asked base false none).run = .running ∧ (asked base false none).boundaryInput = ⟨false, none⟩ := by
  decide

theorem test_witness_HaltStopCcf :
    base.platform.stopMode = .untilReset ∧
    State.Inv { base with platform := { Platform.initial with stopMode := .refuse } } ∧
    ({ base with platform := { Platform.initial with stopMode := .refuse } } : State).platform.stopMode = .refuse :=
  ⟨rfl, rfl, rfl⟩

theorem test_witness_InterruptEntry :
    let s := asked { base with ime := true } false (some 4)
    s.Inv ∧ (s.run = .running ∨ s.run = .halted) ∧ s.ime = true ∧ s.boundaryInput = ⟨false, some 4⟩ :=
  ⟨rfl, .inl rfl, rfl, rfl⟩

theorem test_witness_EntryThenReturn :
    let s := asked { base with ime := true, run := .halted } false (some 4)
    s.Inv ∧ (s.run = .running ∨ s.run = .halted) ∧ s.ime = true ∧ s.boundaryInput = ⟨false, some 4⟩ ∧
    s.plain (s.sp - 1) ∧ s.plain (s.sp - 2) :=
  ⟨rfl, .inr rfl, rfl, rfl, rfl, rfl⟩

/-- One state for each of the four clauses. -/
theorem test_witness_NotExecuting :
    ((asked { base with run := .locked } false (some 1)).boundaryInput.reset = false ∧
      (asked { base with run := .locked } false (some 1)).run = .locked) ∧
    ((asked { base with run := .halted } false none).boundaryInput.pending = none ∧
      (asked { base with run := .halted } false none).run = .halted) ∧
    (let s := asked { base with run := .halted, platform := { Platform.initial with haltWakeIme0 := false } } false (some 1)
     s.boundaryInput.reset = false ∧ s.run = .halted ∧ s.boundaryInput.pending ≠ none ∧ s.ime = false ∧ s.platform.haltWakeIme0 = false) ∧
    (let s := asked { base with run := .halted } false (some 1)
     s.boundaryInput.reset = false ∧ s.run = .halted ∧ s.boundaryInput.pending ≠ none ∧ s.ime = false ∧ s.platform.haltWakeIme0 = true) := by
  decide

theorem test_witness_LockedForGood :
    (asked { base with run := .locked } false (some 1)).run = .locked ∧ (asked { base with run := .locked } false (some 1)).neverReset :=
  ⟨rfl, by intro i hi; simp only [asked, List.mem_singleton] at hi; rw [hi]⟩

/-- A step from a state in canonical form that answers a next state. -/
theorem test_witness_MemoryInvariantKept :
    (put [0xC5#8] base).Inv ∧ ∃ t, step (put [0xC5#8] base) = .next t := by
  exact ⟨by rw [State.Inv]; decide, _, rfl⟩

theorem test_witness_StepFrame : ∃ t, step base = .next t := ⟨_, rfl⟩

theorem test_witness_FlagColumnsObeyed : ∃ t, exec .scf base = .next t := ⟨_, rfl⟩

/-- An instruction for each clause. -/
theorem test_witness_ControlStateWriters :
    (∃ t, exec .nop base = .next t) ∧ Instr.nop ∉ unusedInstrs ∧ (∀ x, Instr.nop ≠ .stop x) ∧ writesSP .nop = false ∧
    Instr.nop ≠ .halt ∧ Instr.nop ≠ .di ∧ Instr.nop ≠ .ei ∧ Instr.nop ≠ .reti :=
  ⟨⟨_, rfl⟩, by decide, nofun, rfl, nofun, nofun, nofun, nofun⟩

/-- A conditional transfer taken and not taken, and the CB prefix. -/
theorem test_witness_CycleCounts :
    (∃ t, exec (.jrCcE .nz 0x05#8) base = .next t) ∧ transferTaken (.jrCcE .nz 0x05#8) base = true ∧
    transferTaken (.jrCcE .z 0x05#8) base = false ∧ cycleCounts (.jrCcE .nz 0x05#8) = some (3, 2) ∧
    (∃ t, exec .cbPrefix base = .next t) ∧ cycleCounts (decodeCb (base.busByte (base.pc + 1))) = some (2, 2) :=
  ⟨⟨_, rfl⟩, rfl, rfl, rfl, ⟨_, rfl⟩, by decide⟩

theorem test_witness_OnlyStoresWriteMemory : mayStore (.bitHL 6#3) = false ∧ ∃ t, exec (.bitHL 6#3) onDevices = .next t :=
  ⟨rfl, _, rfl⟩

/-- RLCA writes CF and RES keeps it. -/
theorem test_witness_FlagsReadOnlyByTheirReaders :
    (readsFlags .rlca = false ∧ (flagColumns .rlca).c ≠ .keep ∧ ∃ t, exec .rlca base = .next t) ∧
    readsFlags (.resR 0#3 .b) = false ∧ (flagColumns (.resR 0#3 .b)).c = .keep ∧ ∃ t, exec (.resR 0#3 .b) base = .next t :=
  ⟨⟨rfl, by decide, _, rfl⟩, rfl, rfl, _, rfl⟩

end Sys2Proof.Tests
end

section
/-! The bits of F (R25): `Flags.toByte` puts the four flags above four zero bits, so a bit index lies in that low half, at
one of the flags, or beyond the byte. -/

namespace Sys2Proof

/-- The zero half first, then the four one-bit parts from CF up. -/
theorem Flags.getLsbD_toByte (f : Flags) (i : Nat) :
    f.toByte.getLsbD i =
      if i < 4 then (0#4).getLsbD i
      else if i - 4 < 1 then (BitVec.ofBool f.c).getLsbD (i - 4)
      else if i - 4 - 1 < 1 then (BitVec.ofBool f.h).getLsbD (i - 4 - 1)
      else if i - 4 - 1 - 1 < 1 then (BitVec.ofBool f.n).getLsbD (i - 4 - 1 - 1)
      else (BitVec.ofBool f.z).getLsbD (i - 4 - 1 - 1 - 1) := by
  rw [← BitVec.getLsbD_append, ← BitVec.getLsbD_append, ← BitVec.getLsbD_append, ← BitVec.getLsbD_append, Flags.toByte]

theorem Flags.getLsbD_toByte_of_lt_four (f : Flags) {i : Nat} (hi : i < 4) : f.toByte.getLsbD i = false := by
  simp [f.getLsbD_toByte, hi]

@[simp] theorem Flags.toByte_bit_four (f : Flags) : f.toByte[4] = f.c := by
  simp [← BitVec.getLsbD_eq_getElem, f.getLsbD_toByte]

@[simp] theorem Flags.toByte_bit_five (f : Flags) : f.toByte[5] = f.h := by
  simp [← BitVec.getLsbD_eq_getElem, f.getLsbD_toByte]

@[simp] theorem Flags.toByte_bit_six (f : Flags) : f.toByte[6] = f.n := by
  simp [← BitVec.getLsbD_eq_getElem, f.getLsbD_toByte]

@[simp] theorem Flags.toByte_bit_seven (f : Flags) : f.toByte[7] = f.z := by
  simp [← BitVec.getLsbD_eq_getElem, f.getLsbD_toByte]

/-- Settles O6, by cases on where the bit index lies. -/
theorem flagByteLayout : Obligations.FlagByteLayout := by
  intro f i
  obtain hlow | rfl | rfl | rfl | rfl | hbeyond :
      i < 4 ∨ i = 4 ∨ i = 5 ∨ i = 6 ∨ i = 7 ∨ 8 ≤ i := by omega
  · rw [f.getLsbD_toByte_of_lt_four hlow]
    grind
  · exact f.toByte_bit_four
  · exact f.toByte_bit_five
  · exact f.toByte_bit_six
  · exact f.toByte_bit_seven
  · rw [f.toByte.getLsbD_of_ge i hbeyond]
    grind

end Sys2Proof
end

section
/-! The 16-bit immediates (R54, R81): which instructions carry one, where the encoder puts its bytes, and which bytes the decoder
and the fetch take it from. -/

namespace Sys2Proof

open Sys2Proof.Machine (lo8 hi8 joinBytes lo8_eq_setWidth hi8_eq_setWidth)

/-- The 16-bit immediate of an instruction of format `OP_NN` (R81). -/
def Instr.immediateWord : Instr → Option Word
  | .ldPpNN _ nn | .ldNNSP nn | .ldNNA nn | .ldANN nn | .jpNN nn | .jpCcNN _ nn | .callNN nn | .callCcNN _ nn => some nn
  | _ => none

/-- The instructions of format `OP_NN` with the immediate `nn` (R81). -/
def immediateForms (p : PairP) (cc : Cond) (nn : Word) : List Instr :=
  [.ldPpNN p nn, .ldNNSP nn, .ldNNA nn, .ldANN nn, .jpNN nn, .jpCcNN cc nn, .callNN nn, .callCcNN cc nn]

theorem immediateWord_of_mem_immediateForms {p : PairP} {cc : Cond} {nn : Word} {i : Instr}
    (hi : i ∈ immediateForms p cc nn) : i.immediateWord = some nn := by
  revert i
  simp [immediateForms, Instr.immediateWord]

/-! ### The encoder -/

theorem encode_of_immediateWord {i : Instr} {nn : Word} (h : i.immediateWord = some nn) :
    ∃ op, encode i = opNN op nn := by
  unfold Instr.immediateWord at h
  split at h <;> cases h <;> exact ⟨_, rfl⟩

theorem opNN_tail (op : Byte) (nn : Word) : (opNN op nn).tail = [nn.setWidth 8, (nn >>> 8).setWidth 8] := by
  rw [opNN, lo8_eq_setWidth, hi8_eq_setWidth, List.tail_cons]

/-! ### The decoder: whether there is an immediate depends on the first byte alone, and its value on the other two -/

theorem immediateWord_decodeCb (op2 : Byte) : (decodeCb op2).immediateWord = none := by
  unfold decodeCb decodeCbRot
  repeat' split
  all_goals rfl

theorem immediateWord_decodeBlock0 (op n m : Byte) :
    (decodeBlock0 op n m).immediateWord = (decodeBlock0 op 0 0).immediateWord.map fun _ => joinBytes m n := by
  unfold decodeBlock0
  repeat' split
  all_goals rfl

theorem immediateWord_decodeBlock1 (op : Byte) : (decodeBlock1 op).immediateWord = none := by
  unfold decodeBlock1
  split <;> rfl

theorem immediateWord_decodeBlock2 (op : Byte) : (decodeBlock2 op).immediateWord = none := by
  unfold decodeBlock2
  split <;> rfl

theorem immediateWord_decodeBlock3 (op n m : Byte) :
    (decodeBlock3 op n m).immediateWord = (decodeBlock3 op 0 0).immediateWord.map fun _ => joinBytes m n := by
  unfold decodeBlock3
  repeat' split
  all_goals rfl

theorem immediateWord_decodeOp_eq_map (op n m : Byte) :
    (decodeOp op n m).immediateWord = (decodeOp op 0 0).immediateWord.map fun _ => joinBytes m n := by
  unfold decodeOp
  split
  · rw [immediateWord_decodeCb, immediateWord_decodeCb, Option.map_none]
  · split
    · exact immediateWord_decodeBlock0 op n m
    · rw [immediateWord_decodeBlock1, Option.map_none]
    · rw [immediateWord_decodeBlock2, Option.map_none]
    · exact immediateWord_decodeBlock3 op n m

/-- The cells of the opcode map that carry a 16-bit immediate are those of the three-byte instructions (R88, R93). -/
theorem isSome_immediateWord_decodeOp_zero :
    ∀ op : Byte, (decodeOp op 0 0).immediateWord.isSome = decide (instrLength op = 3) := by
  decide

theorem immediateWord_decodeOp (op n m : Byte) :
    (decodeOp op n m).immediateWord = if instrLength op = 3 then some (joinBytes m n) else none := by
  have hsome := isSome_immediateWord_decodeOp_zero op
  rw [immediateWord_decodeOp_eq_map]
  cases h : (decodeOp op 0 0).immediateWord with
  | none =>
    rw [h] at hsome
    rw [if_neg (of_decide_eq_false hsome.symm), Option.map_none]
  | some w =>
    rw [h] at hsome
    rw [if_pos (of_decide_eq_true hsome.symm), Option.map_some]

/-! ### The fetch -/

/-- The fetch as one equation (R95): the three bytes it can read, and where it stops. -/
theorem Machine.State.fetch_eq (s : Machine.State) :
    s.fetch =
      let op := s.busByte s.pc
      let n := (s.afterRead s.pc).busByte (s.pc + 1)
      let m := ((s.afterRead s.pc).afterRead (s.pc + 1)).busByte (s.pc + 2)
      if instrLength op = 1 then (decodeOp op 0 0, s.afterRead s.pc)
      else if instrLength op = 2 then (decodeOp op n 0, (s.afterRead s.pc).afterRead (s.pc + 1))
      else (decodeOp op n m, ((s.afterRead s.pc).afterRead (s.pc + 1)).afterRead (s.pc + 2)) := rfl

/-- A shorter instruction has no 16-bit immediate, so where there is one all three bytes were read. -/
theorem immediateWord_fetch {s : Machine.State} {nn : Word} (h : s.fetch.1.immediateWord = some nn) :
    nn = joinBytes (((s.afterRead s.pc).afterRead (s.pc + 1)).busByte (s.pc + 2)) ((s.afterRead s.pc).busByte (s.pc + 1)) := by
  rw [s.fetch_eq] at h
  dsimp only at h
  split at h
  · next hone => simp [immediateWord_decodeOp, hone] at h
  · split at h
    · next htwo => simp [immediateWord_decodeOp, htwo] at h
    · rw [immediateWord_decodeOp, Option.ite_none_right_eq_some] at h
      obtain ⟨-, hjoin⟩ := h
      exact (Option.some.inj hjoin).symm

/-- Settles O13: the encoder puts the immediate's bytes in the order of `opNN`, and the fetch joins them back in that order. -/
theorem immediateLowByteFirst : Obligations.ImmediateLowByteFirst := by
  refine ⟨fun p cc nn i hi => ?_, fun s p cc nn hi => ?_⟩
  · obtain ⟨op, hop⟩ := encode_of_immediateWord (immediateWord_of_mem_immediateForms (p := p) (cc := cc) hi)
    rw [hop, opNN_tail]
  · exact immediateWord_fetch (immediateWord_of_mem_immediateForms (p := p) (cc := cc) hi)

end Sys2Proof
end

section
/-! The length of an instruction from its first byte (R93): the opcodes of three and of two bytes as lists of their own, tied to
`instrLength` by `instrLength_eq`. -/

namespace Sys2Proof

/-- The 17 first bytes of the three-byte instructions (R93). -/
def threeByteOpcodes : List Byte :=
  [0x01, 0x08, 0x11, 0x21, 0x31, 0xC2, 0xC3, 0xC4, 0xCA, 0xCC, 0xCD, 0xD2, 0xD4, 0xDA, 0xDC, 0xEA, 0xFA]

/-- The 27 first bytes of the two-byte instructions, the prefix CBh last (R93). -/
def twoByteOpcodes : List Byte :=
  [0x06, 0x0E, 0x16, 0x1E, 0x26, 0x2E, 0x36, 0x3E, 0xC6, 0xCE, 0xD6, 0xDE, 0xE6, 0xEE, 0xF6, 0xFE,
    0xE0, 0xF0, 0x18, 0x20, 0x28, 0x30, 0x38, 0xE8, 0xF8, 0x10, 0xCB]

theorem instrLength_eq (op : Byte) :
    instrLength op = if op ∈ threeByteOpcodes then 3 else if op ∈ twoByteOpcodes then 2 else 1 := rfl

/-- `instrLength` asks for the three-byte opcodes first; as the two lists share no byte, the order does not matter. -/
theorem not_mem_twoByteOpcodes_of_mem_threeByteOpcodes : ∀ op ∈ threeByteOpcodes, op ∉ twoByteOpcodes := by
  simp [threeByteOpcodes, twoByteOpcodes]

theorem instrLength_eq_three_iff (op : Byte) : instrLength op = 3 ↔ op ∈ threeByteOpcodes := by
  rw [instrLength_eq]
  split_ifs with hthree <;> simp [hthree]

theorem instrLength_eq_two_iff (op : Byte) : instrLength op = 2 ↔ op ∈ twoByteOpcodes := by
  rw [instrLength_eq]
  split_ifs with hthree htwo
  · exact iff_of_false (by decide) (not_mem_twoByteOpcodes_of_mem_threeByteOpcodes op hthree)
  · simp [htwo]
  · simp [htwo]

theorem instrLength_cases (op : Byte) : instrLength op = 1 ∨ instrLength op = 2 ∨ instrLength op = 3 := by
  rw [instrLength_eq]
  split_ifs <;> simp

/-- Settles O11: R93's two lists are those `instrLength` asks for, and they share no byte. -/
theorem instructionLengths : Obligations.InstructionLengths :=
  fun op => ⟨instrLength_eq_three_iff op, instrLength_eq_two_iff op, instrLength_cases op⟩

end Sys2Proof
end

section
/-! The eleven unused opcodes (R86): which cells of the opcode maps they are, and what executing one does (R270). -/

namespace Sys2Proof

open Sys2Proof.Machine (unusedInstrs exec)

/-! ### The decoder: whether a word is unused depends on its first byte alone -/

theorem decodeCb_not_mem_unusedInstrs (op2 : Byte) : decodeCb op2 ∉ unusedInstrs := by
  unfold decodeCb decodeCbRot
  repeat' split
  all_goals simp [unusedInstrs]

theorem decodeBlock0_not_mem_unusedInstrs (op n m : Byte) : decodeBlock0 op n m ∉ unusedInstrs := by
  unfold decodeBlock0
  repeat' split
  all_goals simp [unusedInstrs]

theorem decodeBlock3_mem_unusedInstrs_iff_zero (op n m : Byte) :
    decodeBlock3 op n m ∈ unusedInstrs ↔ decodeBlock3 op 0 0 ∈ unusedInstrs := by
  unfold decodeBlock3
  repeat' split
  all_goals simp [unusedInstrs]

theorem decodeOp_mem_unusedInstrs_iff_zero (op n m : Byte) :
    decodeOp op n m ∈ unusedInstrs ↔ decodeOp op 0 0 ∈ unusedInstrs := by
  unfold decodeOp
  split
  · exact iff_of_false (decodeCb_not_mem_unusedInstrs n) (decodeCb_not_mem_unusedInstrs 0)
  · split
    · exact iff_of_false (decodeBlock0_not_mem_unusedInstrs op n m) (decodeBlock0_not_mem_unusedInstrs op 0 0)
    · rfl
    · rfl
    · exact decodeBlock3_mem_unusedInstrs_iff_zero op n m

/-- The first bytes that select no instruction (R86). -/
def unusedOpcodeBytes : List Byte := [0xD3, 0xDB, 0xDD, 0xE3, 0xE4, 0xEB, 0xEC, 0xED, 0xF4, 0xFC, 0xFD]

/-- The unprefixed map, cell by cell. -/
theorem decodeOp_zero_mem_unusedInstrs_iff :
    ∀ op : Byte, decodeOp op 0 0 ∈ unusedInstrs ↔ op ∈ unusedOpcodeBytes := by
  decide

theorem decodeOp_mem_unusedInstrs_iff (op n m : Byte) : decodeOp op n m ∈ unusedInstrs ↔ op ∈ unusedOpcodeBytes :=
  (decodeOp_mem_unusedInstrs_iff_zero op n m).trans (decodeOp_zero_mem_unusedInstrs_iff op)

/-! ### The encoder -/

theorem length_encode_of_mem_unusedInstrs : ∀ i ∈ unusedInstrs, (encode i).length = 1 := by
  decide

/-! ### The lock-up -/

theorem exec_of_mem_unusedInstrs {i : Instr} (hi : i ∈ unusedInstrs) (s : Machine.State) : exec i s = .next s.lockUp := by
  unfold unusedInstrs at hi
  fin_cases hi <;> rfl

/-- The lock-up as one record update: its `advance` counts 0 cycles (log 16). -/
theorem Machine.State.lockUp_eq (s : Machine.State) : s.lockUp = { s with pc := s.pc + 1, run := .locked } := rfl

/-- Settles O12: the decoder's cells, the encoder's lengths, and the lock-up that every unused opcode runs. -/
theorem unusedOpcodes : Obligations.UnusedOpcodes :=
  ⟨decodeOp_mem_unusedInstrs_iff, decodeCb_not_mem_unusedInstrs, length_encode_of_mem_unusedInstrs,
    fun _ hi s => (exec_of_mem_unusedInstrs hi s).trans (congrArg _ s.lockUp_eq)⟩

end Sys2Proof
end

section
/-! Rules for the load group (`40_load.md`): how the shared operations act on a state whose PC and cycle count have been moved,
the operand notation of the rules, and what each shape of load or store does as a whole. -/

namespace Sys2Proof.Machine

/-! ### Notation: a page-FFh address and the halves of a joined word -/

/-- The address of an I/O load (R51) as the byte FFh above the offset. -/
theorem ioAddr_eq_append (n : Byte) : ioAddr n = 0xFF#8 ++ n := by
  refine BitVec.eq_of_toNat_eq ?_
  have hor : (255 <<< 8 ||| n.toNat) = 255 <<< 8 + n.toNat := (Nat.shiftLeft_add_eq_or_of_lt n.isLt 255).symm
  have hn := n.isLt
  simp only [ioAddr, BitVec.toNat_add, BitVec.toNat_setWidth, BitVec.toNat_append, BitVec.toNat_ofNat, Nat.reduceMod,
    Nat.reducePow, hor]
  omega

theorem hi8_append (hi lo : Byte) : hi8 (hi ++ lo) = hi := hi8_joinBytes hi lo

theorem lo8_append (hi lo : Byte) : lo8 (hi ++ lo) = lo := lo8_joinBytes hi lo

/-! ### A register written (R22) -/

theorem State.setReg_reg_self (s : State) (r : Reg8) : s.setReg r (s.reg r) = s := by
  cases r <;> rfl

theorem State.setReg_advance (s : State) (n k : Nat) (r : Reg8) (v : Byte) :
    (s.advance n k).setReg r v =
      { s.setReg r v with pc := s.pc + BitVec.ofNat 16 n, cycles := s.cycles + k } := by
  cases r <;> rfl

theorem State.loadReg_advance (s : State) (n k : Nat) (r : Reg8) (x : Word) :
    (s.advance n k).loadReg r x =
      { s.setReg r (s.busByte x) with
        pc := s.pc + BitVec.ofNat 16 n, cycles := s.cycles + k, bus := s.busAfterRead x } := by
  cases r <;> rfl

/-! ### A pair written (R23) -/

theorem State.setBC_append (s : State) (hi lo : Byte) : s.setBC (hi ++ lo) = { s with b := hi, c := lo } := by
  rw [State.setBC, hi8_append, lo8_append]

theorem State.setDE_append (s : State) (hi lo : Byte) : s.setDE (hi ++ lo) = { s with d := hi, e := lo } := by
  rw [State.setDE, hi8_append, lo8_append]

theorem State.setHL_append (s : State) (hi lo : Byte) : s.setHL (hi ++ lo) = { s with h := hi, l := lo } := by
  rw [State.setHL, hi8_append, lo8_append]

/-! ### The shapes of a load and of a store -/

/-- An instruction that moves PC and then loads one register from memory. -/
theorem loadsByte_of_exec {i : Instr} {len cyc : Nat} {r : Reg8} {addr : State → Word}
    (hexec : ∀ s, exec i s = .next ((s.advance len cyc).loadReg r (addr s))) :
    LoadsByte i (BitVec.ofNat 16 len) cyc r addr :=
  fun s => (hexec s).trans (congrArg Host.Outcome.next (s.loadReg_advance len cyc r (addr s)))

/-- An instruction that moves PC and then stores one byte: what `memWrite` leaves in memory and on the bus is the same
whether PC has been moved or not. -/
theorem storesByte_of_exec {i : Instr} {len cyc : Nat} {addr : State → Word} {v : State → Byte}
    (hexec : ∀ s, exec i s = .next ((s.advance len cyc).memWrite (addr s) (v s))) :
    StoresByte i (BitVec.ofNat 16 len) cyc addr v := by
  intro s hs
  obtain ⟨hframe, hstores⟩ := State.memWrite_spec (s := s.advance len cyc) hs (addr s) (v s)
  exact ⟨_, hexec s, hframe, hstores⟩

/-- An instruction that stores A at HL and then gives HL a new value (R120, R122): the store uses the old HL, and its own frame
stays with HL changed. -/
theorem storesAtHL_of_exec {i : Instr} {s : State} {w : Word} (hs : s.Inv)
    (hexec : exec i s = .next (((s.advance 1 2).memWrite s.hl s.a).setHL w)) :
    ∃ t, exec i s = .next t ∧
      t = { s.setHL w with pc := s.pc + 1, cycles := s.cycles + 2, mem := t.mem, bus := t.bus } ∧
      Stores s t [(s.hl, s.a)] := by
  obtain ⟨-, hstores⟩ := State.memWrite_spec (s := s.advance 1 2) hs s.hl s.a
  exact ⟨_, hexec, rfl, hstores⟩

/-- A loaded from the old HL, which then takes a new value (R121, R123). -/
theorem State.setHL_loadReg_a_advance (s : State) (w : Word) :
    ((s.advance 1 2).loadReg .a s.hl).setHL w =
      { s.setHL w with
        a := s.busByte s.hl, pc := s.pc + 1, cycles := s.cycles + 2, bus := s.busAfterRead s.hl } := rfl

end Sys2Proof.Machine
end

section
/-! The load group (`40_load.md`): the encoding and the whole effect of the loads and stores of one byte, and of the loads of a
pair. -/

namespace Sys2Proof

open Sys2Proof.Machine

/-- Format `OP_NN` (R81) in the notation of the rules: the low byte of the immediate, then the high byte. -/
theorem opNN_eq (op : Byte) (nn : Word) : opNN op nn = [op, nn.setWidth 8, (nn >>> 8).setWidth 8] := by
  rw [opNN, lo8_eq_setWidth, hi8_eq_setWidth]

/-- The stores of a register at HL have one five-bit prefix: block 01 and the code of (HL) (R112). -/
theorem opY_codeHL (z : BitVec 3) : opY 0b01#2 codeHL z = 0b01110#5 ++ z := rfl

/-- Settles O20: every store is `memWrite` on the state moved past the instruction; R120 and R122 then give HL its new value. -/
theorem oneByteStores : Obligations.OneByteStores := by
  refine ⟨fun q => ⟨congrArg ([·]) (opY_codeHL q.code), storesByte_of_exec fun _ => rfl⟩,
    fun n => ⟨rfl, storesByte_of_exec fun _ => rfl⟩,
    ⟨rfl, storesByte_of_exec fun _ => rfl⟩,
    ⟨rfl, storesByte_of_exec fun _ => rfl⟩,
    fun nn => ⟨opNN_eq _ nn, storesByte_of_exec fun _ => rfl⟩,
    fun n => ⟨rfl, ?_⟩,
    ⟨rfl, ?_⟩,
    rfl, rfl, fun s hs => ⟨storesAtHL_of_exec hs rfl, storesAtHL_of_exec hs rfl⟩⟩
  · simp only [← ioAddr_eq_append]
    exact storesByte_of_exec fun _ => rfl
  · simp only [← ioAddr_eq_append]
    exact storesByte_of_exec fun _ => rfl

/-- Settles O18: both forms write one register of the state moved past the instruction, and a register written with its own
value changes nothing. -/
theorem registerLoads : Obligations.RegisterLoads := by
  have hexec (r q : Reg8) (s : State) :
      exec (.ldRR r q) s = .next { s.setReg r (s.reg q) with pc := s.pc + 1, cycles := s.cycles + 1 } :=
    congrArg Host.Outcome.next (s.setReg_advance 1 1 r (s.reg q))
  refine ⟨fun r q => rfl, fun r n => rfl, hexec, fun r s => ?_,
    fun r n s => congrArg Host.Outcome.next (s.setReg_advance 2 2 r n)⟩
  rw [hexec, s.setReg_reg_self]

/-- Settles O19: every load is `loadReg` on the state moved past the instruction; R121 and R123 then give HL its new value. -/
theorem loadsFromMemory : Obligations.LoadsFromMemory := by
  refine ⟨fun r => ⟨rfl, loadsByte_of_exec fun _ => rfl⟩,
    ⟨rfl, loadsByte_of_exec fun _ => rfl⟩,
    ⟨rfl, loadsByte_of_exec fun _ => rfl⟩,
    fun nn => ⟨opNN_eq _ nn, loadsByte_of_exec fun _ => rfl⟩,
    fun n => ⟨rfl, ?_⟩,
    ⟨rfl, ?_⟩,
    rfl, rfl, fun s =>
      ⟨congrArg Host.Outcome.next (s.setHL_loadReg_a_advance (s.hl + 1)),
        congrArg Host.Outcome.next (s.setHL_loadReg_a_advance (s.hl - 1))⟩⟩
  · simp only [← ioAddr_eq_append]
    exact loadsByte_of_exec fun _ => rfl
  · simp only [← ioAddr_eq_append]
    exact loadsByte_of_exec fun _ => rfl

/-- Settles O21: `LD pp,nn` writes one pair of the state moved past the instruction, each half from its own byte. -/
theorem wordLoads : Obligations.WordLoads := by
  refine ⟨fun p nn => opNN_eq _ nn, rfl, fun hi lo s => ⟨?_, ?_, ?_, rfl⟩, fun s => rfl⟩
  · exact congrArg Host.Outcome.next ((s.advance 3 3).setBC_append hi lo)
  · exact congrArg Host.Outcome.next ((s.advance 3 3).setDE_append hi lo)
  · exact congrArg Host.Outcome.next ((s.advance 3 3).setHL_append hi lo)

end Sys2Proof
end

section
/-! Rules for the arithmetic groups (`41_arith16.md`, `42_alu8.md`): a pair written in a state whose PC has been moved, the 16-bit
sums as the rules write them, what makes the carry and Z of a difference a comparison, and the shape of a two-operand
operation on A. -/

namespace Sys2Proof.Machine

/-! ### A pair written (R23) -/

theorem State.setPairP_advance (s : State) (n k : Nat) (p : PairP) (v : Word) :
    (s.advance n k).setPairP p v =
      { s.setPairP p v with pc := s.pc + BitVec.ofNat 16 n, cycles := s.cycles + k } := by
  cases p <;> rfl

/-! ### The 16-bit sums (R143, R146) -/

/-- `add16` with its carries as the first number the digit does not hold (D5). -/
theorem add16_eq (a b : Word) (f : Flags) :
    add16 a b f = (a + b, { f with
      n := false, h := decide (a.toNat % 4096 + b.toNat % 4096 ≥ 4096), c := decide (a.toNat + b.toNat ≥ 65536) }) := rfl

/-- `addSp` with its carries as the first number the digit does not hold (D6). -/
theorem addSp_eq (sp : Word) (e : Byte) :
    addSp sp e = (sp + e.signExtend 16,
      ⟨false, false, decide (sp.toNat % 16 + e.toNat % 16 ≥ 16), decide (sp.toNat % 256 + e.toNat ≥ 256)⟩) := rfl

/-- A 16-bit sum is exact once its carry is counted. -/
theorem add16_exact (a b : Word) (f : Flags) :
    (add16 a b f).1.toNat + 65536 * (add16 a b f).2.c.toNat = a.toNat + b.toNat := by
  have ha := a.isLt
  have hb := b.isLt
  rw [add16_eq]
  by_cases hcarry : a.toNat + b.toNat ≥ 65536
  · simp only [hcarry, decide_true, Bool.toNat_true, BitVec.toNat_add]
    omega
  · simp only [hcarry, decide_false, Bool.toNat_false, BitVec.toNat_add]
    omega

/-! ### A difference as a comparison (R168) -/

theorem sub8_res_eq_zero_iff (a b : Byte) : (sub8 a b false).res = 0#8 ↔ a.toNat = b.toNat := by
  rw [sub8_res, if_neg Bool.false_ne_true, sub_zero, BitVec.toNat_inj]
  exact sub_eq_zero

theorem sub8_c_iff (a b : Byte) : (sub8 a b false).c = true ↔ a.toNat < b.toNat := by
  simp [sub8]

/-! ### The shape of a two-operand operation on A (R150) -/

theorem State.aluA_advance (s : State) (n k : Nat) (o : AluOp) (x : Source8) :
    (s.advance n k).aluA o x = { (s.source x).2 with
      a := (alu o s.a (s.source x).1 s.f).1, f := (alu o s.a (s.source x).1 s.f).2
      pc := s.pc + BitVec.ofNat 16 n, cycles := s.cycles + k } := by
  cases x <;> rfl

/-- The three forms of an operation run `aluA` on the state moved past the instruction. -/
theorem aluForms_of_exec {withReg : Reg8 → Instr} {withHL : Instr} {withImm : Byte → Instr} {o : AluOp}
    (hreg : ∀ q s, exec (withReg q) s = .next ((s.advance 1 1).aluA o (.reg q)))
    (hhl : ∀ s, exec withHL s = .next ((s.advance 1 2).aluA o .hl))
    (himm : ∀ n s, exec (withImm n) s = .next ((s.advance 2 2).aluA o (.imm n))) :
    AluForms withReg withHL withImm (alu o) := by
  refine fun s => ⟨fun q => ?_, ?_, fun n => ?_⟩
  · exact (hreg q s).trans (congrArg Host.Outcome.next (s.aluA_advance 1 1 o (.reg q)))
  · exact (hhl s).trans (congrArg Host.Outcome.next (s.aluA_advance 1 2 o .hl))
  · exact (himm n s).trans (congrArg Host.Outcome.next (s.aluA_advance 2 2 o (.imm n)))

theorem aluForms_add : AluForms .addAR .addAHL .addAN (alu .add) :=
  aluForms_of_exec (fun _ _ => rfl) (fun _ => rfl) fun _ _ => rfl

theorem aluForms_adc : AluForms .adcAR .adcAHL .adcAN (alu .adc) :=
  aluForms_of_exec (fun _ _ => rfl) (fun _ => rfl) fun _ _ => rfl

theorem aluForms_sub : AluForms .subR .subHL .subN (alu .sub) :=
  aluForms_of_exec (fun _ _ => rfl) (fun _ => rfl) fun _ _ => rfl

theorem aluForms_sbc : AluForms .sbcAR .sbcAHL .sbcAN (alu .sbc) :=
  aluForms_of_exec (fun _ _ => rfl) (fun _ => rfl) fun _ _ => rfl

theorem aluForms_cp : AluForms .cpR .cpHL .cpN (alu .cp) :=
  aluForms_of_exec (fun _ _ => rfl) (fun _ => rfl) fun _ _ => rfl

/-- A law of A and the flags holds of all three forms: they differ only in the operand byte and in what else they change. -/
theorem AluForms.law {withReg : Reg8 → Instr} {withHL : Instr} {withImm : Byte → Instr}
    {g : Byte → Byte → Flags → Byte × Flags} {P : State → Byte → State → Prop} (hforms : AluForms withReg withHL withImm g)
    (hP : ∀ s x t, t.a = (g s.a x s.f).1 → t.f = (g s.a x s.f).2 → P s x t) : AluLaw withReg withHL withImm P := by
  intro s
  obtain ⟨hreg, hhl, himm⟩ := hforms s
  exact ⟨fun q => ⟨_, hreg q, hP _ _ _ rfl rfl⟩, ⟨_, hhl, hP _ _ _ rfl rfl⟩, fun n => ⟨_, himm n, hP _ _ _ rfl rfl⟩⟩

end Sys2Proof.Machine
end

section
/-! The 16-bit Arithmetic group (`41_arith16.md`): the whole effect of its five forms, and the exact sums behind the 8-bit and
16-bit additions (R181). -/

namespace Sys2Proof

open Sys2Proof.Machine

/-! ### What each form does -/

theorem exec_addHLPp (p : PairP) (s : State) :
    exec (.addHLPp p) s = .next { s.setHL (add16 s.hl (s.pairP p) s.f).1 with
      f := (add16 s.hl (s.pairP p) s.f).2, pc := s.pc + 1, cycles := s.cycles + 2 } := rfl

theorem exec_addSPE (e : Byte) (s : State) :
    exec (.addSPE e) s = .next { s with
      sp := (addSp s.sp e).1, f := (addSp s.sp e).2, pc := s.pc + 2, cycles := s.cycles + 4 } := rfl

theorem exec_ldhlSPE (e : Byte) (s : State) :
    exec (.ldhlSPE e) s = .next { s.setHL (addSp s.sp e).1 with
      f := (addSp s.sp e).2, pc := s.pc + 2, cycles := s.cycles + 3 } := rfl

/-! ### The obligations -/

/-- Settles O32: A and the flags of each operation come from one exact 8-bit sum or difference, HL and CF from one exact
16-bit sum. -/
theorem exactSums : Obligations.ExactSums := by
  refine ⟨aluForms_add.law fun s x t ha hf => ?_, aluForms_adc.law fun s x t ha hf => ?_,
    aluForms_sub.law fun s x t ha hf => ?_, aluForms_sbc.law fun s x t ha hf => ?_,
    aluForms_cp.law fun s x t ha hf => ?_, fun p s => ⟨_, exec_addHLPp p s, ?_⟩⟩
  · rw [ha, hf]
    exact add8_exact s.a x false
  · rw [ha, hf]
    exact add8_exact s.a x s.f.c
  · rw [ha, hf]
    exact sub8_exact s.a x false
  · rw [ha, hf]
    exact sub8_exact s.a x s.f.c
  · rw [hf]
    exact ⟨ha, decide_eq_true_iff.trans (sub8_res_eq_zero_iff s.a x), sub8_c_iff s.a x⟩
  · calc (s.setHL (add16 s.hl (s.pairP p) s.f).1).hl.toNat + 65536 * (add16 s.hl (s.pairP p) s.f).2.c.toNat
        = (add16 s.hl (s.pairP p) s.f).1.toNat + 65536 * (add16 s.hl (s.pairP p) s.f).2.c.toNat := by rw [State.hl_setHL]
      _ = s.hl.toNat + (s.pairP p).toNat := add16_exact ..

/-- Settles O26: both forms write one pair of the state moved past the instruction, which leaves F. -/
theorem incDecPairs : Obligations.IncDecPairs := by
  refine ⟨fun p => ⟨rfl, rfl⟩, fun p s => ⟨?_, ?_⟩⟩
  · exact congrArg Host.Outcome.next (s.setPairP_advance 1 2 p (s.pairP p + 1))
  · exact congrArg Host.Outcome.next (s.setPairP_advance 1 2 p (s.pairP p - 1))

/-- Settles O27: `add16_eq` and `addSp_eq` give the sums and the flags that the three instructions write. -/
theorem wordAdditions : Obligations.WordAdditions := by
  refine ⟨fun p s => ?_, fun e s g hg => ⟨?_, ?_⟩⟩
  · rw [exec_addHLPp, add16_eq]
  · rw [exec_addSPE, addSp_eq, hg]
  · rw [exec_ldhlSPE, addSp_eq, hg]

end Sys2Proof
end

section
/-! The logical operations of the 8-bit ALU group (`42_alu8.md`, R171 to R179) and CPL (`44_bitwise.md`, R226): the encoding and
the whole effect. -/

namespace Sys2Proof

open Sys2Proof.Machine

/-! ### The encoding (R83) -/

/-- The block-10 word of a register form: the five fixed bits, then the code of the register. -/
theorem opY_block2 (y code : BitVec 3) : opY 0b10#2 y code = (0b10#2 ++ y) ++ code := rfl

/-! ### A and the flags (R171, R174, R177) -/

theorem alu_and : alu .and = fun a x _ => (a &&& x, ⟨decide (a &&& x = 0), false, true, false⟩) := rfl

theorem alu_xor : alu .xor = fun a x _ => (a ^^^ x, ⟨decide (a ^^^ x = 0), false, false, false⟩) := rfl

theorem alu_or : alu .or = fun a x _ => (a ||| x, ⟨decide (a ||| x = 0), false, false, false⟩) := rfl

/-! ### The three forms -/

theorem aluForms_and : AluForms .andR .andHL .andN (alu .and) :=
  aluForms_of_exec (fun _ _ => rfl) (fun _ => rfl) fun _ _ => rfl

theorem aluForms_xor : AluForms .xorR .xorHL .xorN (alu .xor) :=
  aluForms_of_exec (fun _ _ => rfl) (fun _ => rfl) fun _ _ => rfl

theorem aluForms_or : AluForms .orR .orHL .orN (alu .or) :=
  aluForms_of_exec (fun _ _ => rfl) (fun _ => rfl) fun _ _ => rfl

/-- CPL is `modifyA` on the state moved past the instruction. -/
theorem exec_cpl (s : State) : exec .cpl s = .next ((s.advance 1 1).modifyA cpl8) := rfl

/-! ### The obligation -/

/-- Settles O31: the register forms are block-10 words; the three forms of each operation run `alu`, and CPL runs `cpl8` on A. -/
theorem logicalOperations : Obligations.LogicalOperations := by
  refine ⟨fun q n => ⟨?_, rfl, rfl, ?_, rfl, rfl, ?_, rfl, rfl, rfl⟩, ?_, ?_, ?_, fun s => ?_⟩
  · exact congrArg ([·]) (opY_block2 0b100#3 q.code)
  · exact congrArg ([·]) (opY_block2 0b101#3 q.code)
  · exact congrArg ([·]) (opY_block2 0b110#3 q.code)
  · exact alu_and ▸ aluForms_and
  · exact alu_xor ▸ aluForms_xor
  · exact alu_or ▸ aluForms_or
  · rw [exec_cpl, State.modifyA_spec]
    rfl

end Sys2Proof
end

section
/-! Rules for the ROT group (`43_rot.md`): `rotate` takes a byte apart and joins the parts again, where the rules shift or rotate
it as one word (R190); and the shapes of an operation in place (R53, R59) and of a fast rotate. -/

namespace Sys2Proof.Machine

/-! ### A word rotated or shifted, as two parts joined -/

theorem rotateLeft_eq_append {m n : Nat} (hm : 0 < m) (x : BitVec (m + n)) :
    x.rotateLeft n = x.extractLsb' 0 m ++ x.extractLsb' m n := by
  have hmod : n % (m + n) = n := Nat.mod_eq_of_lt (by omega)
  ext i hi
  rw [BitVec.getElem_rotateLeft, BitVec.getElem_append]
  by_cases hlow : i < n
  · simp [hmod, hlow, ← BitVec.getLsbD_eq_getElem]
  · have hhigh : i - n < m := by omega
    simp [hmod, hlow, hhigh, ← BitVec.getLsbD_eq_getElem]

theorem rotateRight_eq_append {m n : Nat} (hm : 0 < m) (x : BitVec (n + m)) :
    x.rotateRight n = x.extractLsb' 0 n ++ x.extractLsb' n m := by
  have hmod : n % (n + m) = n := Nat.mod_eq_of_lt (by omega)
  ext i hi
  rw [BitVec.getElem_rotateRight, BitVec.getElem_append]
  by_cases hlow : i < m
  · simp [hmod, hlow, ← BitVec.getLsbD_eq_getElem]
  · have hhigh : i - m < n := by omega
    simp [hmod, hlow, hhigh, ← BitVec.getLsbD_eq_getElem]

theorem sshiftRight_one_eq_append {m : Nat} (x : BitVec (1 + m)) :
    x.sshiftRight 1 = x.extractLsb' m 1 ++ x.extractLsb' 1 m := by
  ext i hi
  by_cases hlow : i < m
  · simp [BitVec.getElem_append, BitVec.getElem_sshiftRight, hlow]
  · obtain rfl : i = m := by omega
    simp [BitVec.getElem_append, BitVec.getElem_sshiftRight, BitVec.msb_eq_getLsbD_last]

theorem shiftLeft_one_eq_append (v : Byte) : v <<< 1 = v.extractLsb' 0 7 ++ 0#1 :=
  BitVec.shiftLeft_eq_concat_of_lt (by decide)

theorem ushiftRight_one_eq_append (v : Byte) : v >>> 1 = 0#1 ++ v.extractLsb' 1 7 :=
  BitVec.ushiftRight_eq_extractLsb'_of_lt (by decide)

theorem bit0_eq_append (cf : Bool) : bit0 cf = 0#7 ++ BitVec.ofBool cf := by
  cases cf <;> rfl

theorem bit7_eq_append (cf : Bool) : bit7 cf = BitVec.ofBool cf ++ 0#7 := by
  cases cf <;> rfl

/-! ### `rotate` in the notation of the rules -/

theorem rotate_rl (v : Byte) (cf : Bool) : rotate .rl v cf = (v <<< 1 ||| bit0 cf, v.getLsbD 7) := by
  rw [shiftLeft_one_eq_append, bit0_eq_append, BitVec.or_append, BitVec.or_zero, BitVec.zero_or, rotate]

theorem rotate_rr (v : Byte) (cf : Bool) : rotate .rr v cf = (v >>> 1 ||| bit7 cf, v.getLsbD 0) := by
  rw [ushiftRight_one_eq_append, bit7_eq_append, BitVec.or_append, BitVec.or_zero, BitVec.zero_or, rotate]

theorem rotate_rlc (v : Byte) (cf : Bool) : rotate .rlc v cf = (v.rotateLeft 1, v.getLsbD 7) :=
  congrArg (·, v.getLsbD 7) (rotateLeft_eq_append (m := 7) (n := 1) (by decide) v).symm

theorem rotate_rrc (v : Byte) (cf : Bool) : rotate .rrc v cf = (v.rotateRight 1, v.getLsbD 0) :=
  congrArg (·, v.getLsbD 0) (rotateRight_eq_append (m := 7) (n := 1) (by decide) v).symm

theorem rotate_sla (v : Byte) (cf : Bool) : rotate .sla v cf = (v <<< 1, v.getLsbD 7) :=
  congrArg (·, v.getLsbD 7) (shiftLeft_one_eq_append v).symm

theorem rotate_sra (v : Byte) (cf : Bool) : rotate .sra v cf = (v.sshiftRight 1, v.getLsbD 0) :=
  congrArg (·, v.getLsbD 0) (sshiftRight_one_eq_append (m := 7) v).symm

theorem rotate_srl (v : Byte) (cf : Bool) : rotate .srl v cf = (v >>> 1, v.getLsbD 0) :=
  congrArg (·, v.getLsbD 0) (ushiftRight_one_eq_append v).symm

theorem rotate_swap (v : Byte) (cf : Bool) : rotate .swap v cf = (v.rotateLeft 4, false) :=
  congrArg (·, false) (rotateLeft_eq_append (m := 4) (n := 4) (by decide) v).symm

/-- What `rotate` gives decides what the CB-prefixed form does to the byte and the flags (R190). -/
theorem rot8_eq_rotSpec {o : RotOp} {res : Byte → Bool → Byte} {carry : Byte → Bool}
    (hrot : ∀ v cf, rotate o v cf = (res v cf, carry v)) : rot8 o = rotSpec res carry := by
  funext v f
  rw [rot8, hrot, rotSpec]

/-! ### The shape of an operation in place -/

theorem State.modify_reg_advance (s : State) (n k : Nat) (r : Reg8) (g : Byte → Flags → Byte × Flags) :
    (s.advance n k).modify (.reg r) g = { s.setReg r (g (s.reg r) s.f).1 with
      f := (g (s.reg r) s.f).2, pc := s.pc + BitVec.ofNat 16 n, cycles := s.cycles + k } := by
  cases r <;> rfl

/-- Both forms run `modify` on the state moved past the instruction: moving PC changes neither the byte at HL nor what the store
leaves in memory and on the bus. -/
theorem inPlaceForms_of_exec {withReg : Reg8 → Instr} {withHL : Instr} {len cycReg cycHL : Nat}
    {g : Byte → Flags → Byte × Flags}
    (hreg : ∀ q s, exec (withReg q) s = .next ((s.advance len cycReg).modify (.reg q) g))
    (hhl : ∀ s, exec withHL s = .next ((s.advance len cycHL).modify .hl g)) :
    InPlaceForms withReg withHL (BitVec.ofNat 16 len) cycReg cycHL g := by
  refine ⟨fun s q => ?_, fun s hs => ?_⟩
  · exact (hreg q s).trans (congrArg Host.Outcome.next (s.modify_reg_advance len cycReg q g))
  · obtain ⟨hframe, hstores⟩ := State.modify_hl_spec (s := s.advance len cycHL) hs g
    exact ⟨_, hhl s, hframe, hstores⟩

/-- An operation in place with `rot8 o` has the result and the carry out that `rotate o` gives (R190). -/
theorem inPlaceForms_of_rotate {withReg : Reg8 → Instr} {withHL : Instr} {o : RotOp} {res : Byte → Bool → Byte}
    {carry : Byte → Bool} (hrot : ∀ v cf, rotate o v cf = (res v cf, carry v))
    (hreg : ∀ q s, exec (withReg q) s = .next ((s.advance 2 2).modify (.reg q) (rot8 o)))
    (hhl : ∀ s, exec withHL s = .next ((s.advance 2 4).modify .hl (rot8 o))) :
    InPlaceForms withReg withHL 2 2 4 (rotSpec res carry) :=
  rot8_eq_rotSpec hrot ▸ inPlaceForms_of_exec hreg hhl

/-! ### The fast rotates (R191 to R194) -/

/-- Z, N and H are cleared whatever the result; A and C are what `rotate` gives. -/
theorem exec_of_fastRotate {i : Instr} {o : RotOp} (hexec : ∀ s, exec i s = .next ((s.advance 1 1).modifyA (rotFast o)))
    {s : State} {v : Byte} {c : Bool} (hrot : rotate o s.a s.f.c = (v, c)) :
    exec i s = .next { s with a := v, f := ⟨false, false, false, c⟩, pc := s.pc + 1, cycles := s.cycles + 1 } := by
  rw [hexec, State.modifyA_spec, rotFast, State.advance_a, State.advance_f, hrot]
  rfl

end Sys2Proof.Machine
end

section
/-! The ROT group (`43_rot.md`): the encoding and the whole effect of the rotates and shifts. -/

namespace Sys2Proof

open Sys2Proof.Machine

/-! ### The encoding (R83, R89) -/

/-- The second byte of a CB-prefixed rotate or shift: block 00 and the operation in five bits, then the code of the operand. -/
theorem opCB_block0 (y code : BitVec 3) : opCB 0b00#2 y code = [0xCB#8, (0b00#2 ++ y) ++ code] := rfl

/-! ### The obligations -/

/-- Settles O36: the four operations are `modify` with what `rotate` gives for RL, RLC, RR and RRC. -/
theorem rotatesThroughCarryAndCircular : Obligations.RotatesThroughCarryAndCircular := by
  refine ⟨fun q => ⟨opCB_block0 0b010#3 q.code, rfl, opCB_block0 0b000#3 q.code, rfl,
      opCB_block0 0b011#3 q.code, rfl, opCB_block0 0b001#3 q.code, rfl⟩, ?_, ?_, ?_, ?_⟩
  · exact inPlaceForms_of_rotate rotate_rl (fun _ _ => rfl) fun _ => rfl
  · exact inPlaceForms_of_rotate rotate_rlc (fun _ _ => rfl) fun _ => rfl
  · exact inPlaceForms_of_rotate rotate_rr (fun _ _ => rfl) fun _ => rfl
  · exact inPlaceForms_of_rotate rotate_rrc (fun _ _ => rfl) fun _ => rfl

/-- Settles O37: the four operations are `modify` with what `rotate` gives for SLA, SRA, SRL and SWAP. -/
theorem shiftsAndSwap : Obligations.ShiftsAndSwap := by
  refine ⟨fun q => ⟨opCB_block0 0b100#3 q.code, rfl, opCB_block0 0b101#3 q.code, rfl,
      opCB_block0 0b111#3 q.code, rfl, opCB_block0 0b110#3 q.code, rfl⟩, ?_, ?_, ?_, ?_⟩
  · exact inPlaceForms_of_rotate rotate_sla (fun _ _ => rfl) fun _ => rfl
  · exact inPlaceForms_of_rotate rotate_sra (fun _ _ => rfl) fun _ => rfl
  · exact inPlaceForms_of_rotate rotate_srl (fun _ _ => rfl) fun _ => rfl
  · exact inPlaceForms_of_rotate rotate_swap (fun _ _ => rfl) fun _ => rfl

/-- Settles O35: the four are `modifyA` with what `rotate` gives for the circular and the through-carry rotates. -/
theorem fastRotates : Obligations.FastRotates := by
  refine ⟨rfl, rfl, rfl, rfl, fun s => ⟨?_, ?_, ?_, ?_⟩⟩
  · exact exec_of_fastRotate (fun _ => rfl) (rotate_rlc s.a s.f.c)
  · exact exec_of_fastRotate (fun _ => rfl) (rotate_rrc s.a s.f.c)
  · exact exec_of_fastRotate (fun _ => rfl) (rotate_rl s.a s.f.c)
  · exact exec_of_fastRotate (fun _ => rfl) (rotate_rr s.a s.f.c)

end Sys2Proof
end

section
/-! The Bitwise group (`44_bitwise.md`, R219 to R225): BIT, RES and SET on a register and on the byte at HL. -/

namespace Sys2Proof

open Sys2Proof.Machine

/-! ### The encoding (R83, R89) -/

/-- The second byte of BIT, RES or SET: the block and the bit number, then the code of the operand; `opCB` writes them in this
order for every block. -/
theorem opCB_eq (x : BitVec 2) (k code : BitVec 3) : opCB x k code = [0xCB#8, x ++ k ++ code] := rfl

/-! ### One bit of a byte (R219) -/

theorem getLsbD_bitMask (k : BitVec 3) (j : Nat) : (bitMask k).getLsbD j = decide (j = k.toNat) := by
  have hk : k.toNat < 8 := k.isLt
  simp only [bitMask, BitVec.getLsbD_shiftLeft, BitVec.getLsbD_one]
  grind

theorem getLsbD_res8 (k : BitVec 3) (v : Byte) (f : Flags) {j : Nat} (hj : j < 8) :
    (res8 k v f).1.getLsbD j = if j = k.toNat then false else v.getLsbD j := by
  rw [res8, BitVec.getLsbD_and, BitVec.getLsbD_not, getLsbD_bitMask]
  split_ifs with hbit <;> simp [hbit, hj]

theorem getLsbD_set8 (k : BitVec 3) (v : Byte) (f : Flags) (j : Nat) :
    (set8 k v f).1.getLsbD j = if j = k.toNat then true else v.getLsbD j := by
  rw [set8, BitVec.getLsbD_or, getLsbD_bitMask]
  split_ifs with hbit <;> simp [hbit]

/-! ### The operand read, and the operand written in place -/

/-- BIT neither reads nor writes PC and the cycle count. -/
theorem Machine.State.testBit_advance (s : State) (n c : Nat) (k : BitVec 3) (x : Place8) :
    (s.advance n c).testBit k x = (s.testBit k x).advance n c := by
  cases x with
  | reg q => cases q <;> rfl
  | hl => rfl

/-- The register an operation in place leaves: what it makes of the old value. -/
theorem Machine.State.reg_modify_reg (s : State) (r : Reg8) (g : Byte → Flags → Byte × Flags) :
    (s.modify (.reg r) g).reg r = (g (s.reg r) s.f).1 := by
  cases r <;> rfl

/-! ### What each form does -/

theorem exec_bitR (k : BitVec 3) (q : Reg8) (s : State) :
    exec (.bitR k q) s = .next ((s.testBit k (.reg q)).advance 2 2) :=
  congrArg Host.Outcome.next (s.testBit_advance 2 2 k (.reg q))

theorem exec_bitHL (k : BitVec 3) (s : State) : exec (.bitHL k) s = .next ((s.testBit k .hl).advance 2 3) :=
  congrArg Host.Outcome.next (s.testBit_advance 2 3 k .hl)

theorem exec_resR (k : BitVec 3) (q : Reg8) (s : State) :
    exec (.resR k q) s = .next ((s.advance 2 2).modify (.reg q) (res8 k)) := rfl

theorem exec_setR (k : BitVec 3) (q : Reg8) (s : State) :
    exec (.setR k q) s = .next ((s.advance 2 2).modify (.reg q) (set8 k)) := rfl

theorem inPlaceForms_res (k : BitVec 3) : InPlaceForms (.resR k) (.resHL k) 2 2 4 (res8 k) :=
  inPlaceForms_of_exec (exec_resR k) fun _ => rfl

theorem inPlaceForms_set (k : BitVec 3) : InPlaceForms (.setR k) (.setHL k) 2 2 4 (set8 k) :=
  inPlaceForms_of_exec (exec_setR k) fun _ => rfl

/-! ### The obligations -/

/-- Settles O40: both operations are `modify` with the mask of the bit number, of which only that bit is set. -/
theorem resetAndSetBit : Obligations.ResetAndSetBit := by
  refine ⟨fun k q => ⟨opCB_eq 0b10#2 k q.code, opCB_eq 0b10#2 k codeHL, opCB_eq 0b11#2 k q.code, opCB_eq 0b11#2 k codeHL⟩,
    fun k => ⟨inPlaceForms_res k, inPlaceForms_set k⟩,
    fun k q s => ⟨_, _, exec_resR k q s, exec_setR k q s, fun j hj => ⟨?_, ?_⟩⟩⟩
  · rw [State.reg_modify_reg, State.reg_advance]
    exact getLsbD_res8 k (s.reg q) s.f hj
  · rw [State.reg_modify_reg, State.reg_advance]
    exact getLsbD_set8 k (s.reg q) s.f j

/-- Settles O39: both forms are `testBit` with PC moved past the instruction; `testBit` writes F alone, and the (HL) form reads its
byte once. -/
theorem bitTestsWithoutWriting : Obligations.BitTestsWithoutWriting := by
  refine ⟨fun k q => ⟨opCB_eq 0b01#2 k q.code, opCB_eq 0b01#2 k codeHL⟩, fun k s => ⟨fun q => ?_, ?_⟩⟩
  · rw [exec_bitR, s.testBit_spec]
    rfl
  · rw [exec_bitHL, s.testBit_spec]
    rfl

end Sys2Proof
end

section
/-! JP nn (`45_control_flow.md`, R234), NOP and SCF (`46_cpu_control.md`, R254, R255): the encoding and the whole effect. -/

namespace Sys2Proof

open Sys2Proof.Machine

/-! ### The shared operations -/

/-- A jump forgets where `advance` put PC; the cycles stay counted. -/
theorem Machine.State.jump_advance (s : State) (n k : Nat) (target : Word) :
    (s.advance n k).jump target = { s with pc := target, cycles := s.cycles + k } := rfl

/-- R255 in the order of F: Z kept, N and H cleared, C set. -/
theorem scfFlags_eq (f : Flags) : scfFlags f = ⟨f.z, false, false, true⟩ := rfl

/-! ### What each instruction does -/

theorem exec_jpNN (nn : Word) (s : State) : exec (.jpNN nn) s = .next ((s.advance 3 4).jump nn) := rfl

theorem exec_nop (s : State) : exec .nop s = .next (s.advance 1 1) := rfl

theorem exec_scf (s : State) : exec .scf s = .next { s.advance 1 1 with f := scfFlags s.f } := rfl

/-! ### The obligation -/

/-- Settles O41: JP nn is a jump from the advanced state, NOP is `advance` alone, and SCF writes `scfFlags` over it. -/
theorem jumpNopScf : Obligations.JumpNopScf := by
  refine ⟨fun nn => opNN_eq _ nn, rfl, rfl, fun s => ⟨fun nn => ?_, ?_, ?_⟩⟩
  · rw [exec_jpNN, State.jump_advance]
  · exact exec_nop s
  · rw [exec_scf, scfFlags_eq]
    rfl

end Sys2Proof
end

section
/-! The family EncodedLength (R80, R93) as one theorem over all instructions. -/

namespace Sys2Proof

open Sys2Proof.Laws.EncodedLength

theorem encode_length (i : Instr) : Statement i :=
  match i with
  | .ldRR r s => ldRR r s | .ldHLR s => ldHLR s | .ldRHL r => ldRHL r | .ldRN r n => ldRN r n | .ldHLN n => ldHLN n
  | .ldBCA => ldBCA | .ldABC => ldABC | .ldDEA => ldDEA | .ldADE => ldADE | .ldHLIA => ldHLIA | .ldAHLI => ldAHLI
  | .ldHLDA => ldHLDA | .ldAHLD => ldAHLD | .ldNNA nn => ldNNA nn | .ldANN nn => ldANN nn | .ldNA n => ldNA n
  | .ldAN n => ldAN n | .ldCA => ldCA | .ldAC => ldAC | .ldPpNN p nn => ldPpNN p nn | .ldNNSP nn => ldNNSP nn
  | .ldSPHL => ldSPHL | .popQq q => popQq q | .pushQq q => pushQq q | .incPp p => incPp p | .decPp p => decPp p
  | .addHLPp p => addHLPp p | .addSPE e => addSPE e | .ldhlSPE e => ldhlSPE e | .incR r => incR r | .incHL => incHL
  | .decR r => decR r | .decHL => decHL | .addAR s => addAR s | .addAHL => addAHL | .addAN n => addAN n
  | .adcAR s => adcAR s | .adcAHL => adcAHL | .adcAN n => adcAN n | .subR s => subR s | .subHL => subHL
  | .subN n => subN n | .sbcAR s => sbcAR s | .sbcAHL => sbcAHL | .sbcAN n => sbcAN n | .cpR s => cpR s | .cpHL => cpHL
  | .cpN n => cpN n | .andR s => andR s | .andHL => andHL | .andN n => andN n | .xorR s => xorR s | .xorHL => xorHL
  | .xorN n => xorN n | .orR s => orR s | .orHL => orHL | .orN n => orN n | .daa => daa | .rlca => rlca | .rrca => rrca
  | .rla => rla | .rra => rra | .rlR s => rlR s | .rlHL => rlHL | .rlcR s => rlcR s | .rlcHL => rlcHL | .rrR s => rrR s
  | .rrHL => rrHL | .rrcR s => rrcR s | .rrcHL => rrcHL | .slaR s => slaR s | .slaHL => slaHL | .sraR s => sraR s
  | .sraHL => sraHL | .srlR s => srlR s | .srlHL => srlHL | .swapR s => swapR s | .swapHL => swapHL
  | .bitR k s => bitR k s | .bitHL k => bitHL k | .resR k s => resR k s | .resHL k => resHL k | .setR k s => setR k s
  | .setHL k => setHL k | .cpl => cpl | .rst t => rst t | .callNN nn => callNN nn | .callCcNN cc nn => callCcNN cc nn
  | .jpNN nn => jpNN nn | .jpHL => jpHL | .jpCcNN cc nn => jpCcNN cc nn | .jrE e => jrE e | .jrCcE cc e => jrCcE cc e
  | .ret => ret | .retCc cc => retCc cc | .reti => reti | .di => di | .ei => ei | .halt => halt | .stop x => stop x
  | .nop => nop | .scf => scf | .ccf => ccf | .cbPrefix => cbPrefix | .unusedD3 => unusedD3 | .unusedDB => unusedDB
  | .unusedDD => unusedDD | .unusedE3 => unusedE3 | .unusedE4 => unusedE4 | .unusedEB => unusedEB | .unusedEC => unusedEC
  | .unusedED => unusedED | .unusedF4 => unusedF4 | .unusedFC => unusedFC | .unusedFD => unusedFD

end Sys2Proof
end

section
/-! The round trip of the encoder and the decoder (`30_encoding.md` sections 1 to 6): the fields that the encoder puts into an opcode
byte are those the decoder reads from it, and a first byte asks for as many bytes as the encoder writes. -/

namespace Sys2Proof

open Sys2Proof.Machine (lo8 hi8 joinBytes joinBytes_hi8_lo8 lo8_joinBytes hi8_joinBytes)

/-! ### The fields of an opcode byte (R82, R83) -/

@[simp] theorem fieldX_opY : ∀ (x : BitVec 2) (y z : BitVec 3), fieldX (opY x y z) = x := by decide

@[simp] theorem fieldY_opY : ∀ (x : BitVec 2) (y z : BitVec 3), fieldY (opY x y z) = y := by decide

@[simp] theorem fieldZ_opY : ∀ (x : BitVec 2) (y z : BitVec 3), fieldZ (opY x y z) = z := by decide

@[simp] theorem regOfCode_codeHL : regOfCode codeHL = none := rfl

@[simp] theorem regOfCode_code (r : Reg8) : regOfCode r.code = some r := by
  cases r <;> rfl

/-- The bits of an address that the field `ttt` carries (R84, R231). -/
theorem rstTargetOfCode_rstCode_eq_and (t : Word) : rstTargetOfCode (rstCode t) = t &&& ~~~0xFFC7#16 := by
  ext i hi
  interval_cases i <;> simp [rstTargetOfCode, rstCode]

theorem rstTargetOfCode_rstCode {t : Word} (h : rstTarget t = true) : rstTargetOfCode (rstCode t) = t := by
  have hmask : t &&& 0xFFC7#16 = 0#16 := eq_of_beq h
  calc rstTargetOfCode (rstCode t)
      = 0#16 ||| t &&& ~~~0xFFC7#16 := by rw [rstTargetOfCode_rstCode_eq_and, BitVec.zero_or]
    _ = t &&& (0xFFC7#16 ||| ~~~0xFFC7#16) := by rw [← hmask, BitVec.and_or_distrib_left]
    _ = t := BitVec.and_allOnes

/-! ### The decoder on the encoder's bytes -/

/-- The instruction that the decoder reads from the first bytes of a list; a byte the list lacks reads as 0. -/
def decodeFirst (bs : List Byte) : Instr := decodeOp (bs.getD 0 0) (bs.getD 1 0) (bs.getD 2 0)

theorem decodeFirst_opNN (op : Byte) (nn : Word) (rest : List Byte) :
    decodeFirst (opNN op nn ++ rest) = decodeOp op (lo8 nn) (hi8 nn) := rfl

theorem decodeFirst_opCB (x : BitVec 2) (y z : BitVec 3) (rest : List Byte) :
    decodeFirst (opCB x y z ++ rest) = decodeCb (opY x y z) := rfl

/-- The opcode byte by itself, so that it can be computed without the bytes after it. -/
theorem decodeFirst_of_encode {i : Instr} {op : Byte} {operands rest : List Byte} (hi : encode i = op :: operands)
    (hop : decodeOp op ((operands ++ rest).getD 0 0) ((operands ++ rest).getD 1 0) = i) :
    decodeFirst (encode i ++ rest) = i := by
  rw [hi]
  exact hop

/-- RST: the one instruction whose operand the opcode byte holds only in part. -/
theorem decodeOp_rst (y : BitVec 3) (n m : Byte) : decodeOp (opY 0b11#2 y 0b111#3) n m = .rst (rstTargetOfCode y) := by
  have hop : opY 0b11#2 y 0b111#3 ≠ 0xCB#8 := by revert y; decide
  rw [decodeOp, if_neg hop, fieldX_opY]
  simp [decodeBlock3]

/-- The decoder gives an encoded instruction back, whatever bytes follow. A register, pair or condition is one of a few, an
immediate is the byte or the two bytes read; only the prefix row is not a whole instruction. -/
theorem decodeFirst_encode {i : Instr} (hwf : i.wellFormed = true) (hcb : i ≠ .cbPrefix) (rest : List Byte) :
    decodeFirst (encode i ++ rest) = i := by
  cases i with
  | cbPrefix => exact absurd rfl hcb
  | rst t => exact (decodeOp_rst (rstCode t) _ _).trans (congrArg Instr.rst (rstTargetOfCode_rstCode hwf))
  | ldRR r q => cases r <;> cases q <;> exact decodeFirst_of_encode rfl rfl
  | ldHLR r | ldRHL r | incR r | decR r | addAR r | adcAR r | subR r | sbcAR r | cpR r | andR r | xorR r | orR r
  | ldRN r n => cases r <;> exact decodeFirst_of_encode rfl rfl
  | incPp p | decPp p | addHLPp p | popQq p | pushQq p => cases p <;> exact decodeFirst_of_encode rfl rfl
  | retCc cc | jrCcE cc e => cases cc <;> exact decodeFirst_of_encode rfl rfl
  | ldPpNN p nn => rw [encode, decodeFirst_opNN]; cases p <;> exact congrArg _ (joinBytes_hi8_lo8 nn)
  | callCcNN cc nn | jpCcNN cc nn => rw [encode, decodeFirst_opNN]; cases cc <;> exact congrArg _ (joinBytes_hi8_lo8 nn)
  | ldNNA nn | ldANN nn | ldNNSP nn | callNN nn | jpNN nn =>
    rw [encode, decodeFirst_opNN]; exact congrArg _ (joinBytes_hi8_lo8 nn)
  | rlR r | rlcR r | rrR r | rrcR r | slaR r | sraR r | srlR r | swapR r | rlHL | rlcHL | rrHL | rrcHL | slaHL | sraHL | srlHL
  | swapHL | bitR k r | resR k r | setR k r | bitHL k | resHL k | setHL k =>
    rw [encode, decodeFirst_opCB]; simp [decodeCb, decodeCbRot]
  | _ => exact decodeFirst_of_encode rfl rfl

/-- On a list that begins with a whole instruction, `decode` is `decodeFirst` of those bytes and leaves the others. -/
theorem decode_append {bs : List Byte} {op : Byte} {operands : List Byte} (hbs : bs = op :: operands)
    (hlen : operands.length + 1 = instrLength op) (rest : List Byte) :
    decode (bs ++ rest) = .ok (decodeFirst bs, rest) := by
  subst hbs
  have hcb : instrLength 0xCB#8 = 2 := by decide
  obtain h | h | h := instrLength_cases op <;> rw [h] at hlen
  · obtain rfl : operands = [] := List.eq_nil_of_length_eq_zero (by omega)
    have hop : op ≠ 0xCB#8 := by rintro rfl; omega
    rcases rest with _ | ⟨n, _ | ⟨m, rest⟩⟩ <;> simp [decode, decodeFirst, h, hop]
  · obtain ⟨n, rfl⟩ := List.length_eq_one_iff.1 (show operands.length = 1 by omega)
    rcases rest with _ | ⟨m, rest⟩ <;> simp [decode, decodeFirst, h]
  · obtain ⟨n, m, rfl⟩ := List.length_eq_two.1 (show operands.length = 2 by omega)
    simp [decode, decodeFirst, h]

/-! ### The encoder on the decoder's instructions -/

/-- The CB map (R89), cell by cell. -/
theorem encode_decodeCb : ∀ n : Byte, encode (decodeCb n) = [0xCB#8, n] ∧ (decodeCb n).wellFormed = true := by decide

/-- The cells of the one-byte instructions (R88, R93). -/
theorem encode_decodeOp_zero_of_one : ∀ op : Byte, instrLength op = 1 →
    encode (decodeOp op 0 0) = [op] ∧ (decodeOp op 0 0).wellFormed = true ∧ decodeOp op 0 0 ≠ .cbPrefix := by
  decide

/-- A one-byte instruction is the same whatever bytes follow its own. -/
theorem decodeOp_of_one {op : Byte} (h : instrLength op = 1) (n m : Byte) : decodeOp op n m = decodeOp op 0 0 := by
  obtain ⟨henc, hwf, hcb⟩ := encode_decodeOp_zero_of_one op h
  have hdec := decodeFirst_encode hwf hcb [n, m]
  rw [henc] at hdec
  exact hdec

/-- The cells of the two-byte instructions: the second byte is the immediate, or selects a cell of the CB map. -/
theorem encode_decodeOp_of_two (n m : Byte) : ∀ op ∈ twoByteOpcodes,
    encode (decodeOp op n m) = [op, n] ∧ (decodeOp op n m).wellFormed = true := by
  have hcb : encode (decodeOp 0xCB#8 n m) = [0xCB#8, n] ∧ (decodeOp 0xCB#8 n m).wellFormed = true := encode_decodeCb n
  simp only [twoByteOpcodes, List.forall_mem_cons]
  and_intros
  any_goals rfl
  exacts [hcb.1, hcb.2, List.forall_mem_nil _]

/-- The cells of the three-byte instructions: the immediate is joined from the other two bytes. -/
theorem encode_decodeOp_of_three (n m : Byte) : ∀ op ∈ threeByteOpcodes,
    encode (decodeOp op n m) = opNN op (joinBytes m n) ∧ (decodeOp op n m).wellFormed = true := by
  simp only [threeByteOpcodes, List.forall_mem_cons]
  and_intros
  any_goals rfl
  exact List.forall_mem_nil _

/-! ### The obligations -/

/-- Settles O9: an encoding is as long as its first byte asks for, and the decoder reads the encoder's fields back. -/
theorem decodeOfEncode : Obligations.DecodeOfEncode := by
  refine ⟨fun i rest hwf hcb => ?_, rfl⟩
  obtain ⟨op, operands, henc, hlen⟩ := encode_length i hcb
  have hfirst := decodeFirst_encode hwf hcb []
  rw [List.append_nil] at hfirst
  rw [decode_append henc hlen, hfirst]

/-- Settles O10, by the length that the first byte asks for. -/
theorem encodeOfDecode : Obligations.EncodeOfDecode := by
  intro op n m
  obtain hlen | hlen | hlen := instrLength_cases op
  · obtain ⟨henc, hwf, -⟩ := encode_decodeOp_zero_of_one op hlen
    rw [decodeOp_of_one hlen, hlen]
    exact ⟨henc, hwf⟩
  · rw [hlen]
    exact encode_decodeOp_of_two n m op ((instrLength_eq_two_iff op).1 hlen)
  · obtain ⟨henc, hwf⟩ := encode_decodeOp_of_three n m op ((instrLength_eq_three_iff op).1 hlen)
    rw [henc, opNN, lo8_joinBytes, hi8_joinBytes, hlen]
    exact ⟨rfl, hwf⟩

end Sys2Proof
end

section
/-! What an instruction does, said once for all of them: the effect of each as a list of elementary actions, the flags it leaves
and the target of its transfer. `exec_eq_after` ties the effects to `exec`; the rules of the whole machine are then facts about six
actions and about the rows of one table. -/

namespace Sys2Proof.Machine

/-! ### Elementary actions -/

/-- One thing that an instruction does beside writing F, moving PC and counting cycles. -/
inductive Action where
  | read (x : Word)
  | store (x : Word) (v : Byte)
  | reg (r : Reg8) (v : Byte)
  | pair (p : PairP) (v : Word)
  | ime (b : Bool)
  | run (r : RunState)

def State.act (s : State) : Action → State
  | .read x => s.afterRead x
  | .store x v => s.memWrite x v
  | .reg r v => s.setReg r v
  | .pair p v => s.setPairP p v
  | .ime b => { s with ime := b }
  | .run r => { s with run := r }

/-- The actions in their order, the first one first. -/
def State.acts (s : State) (as : List Action) : State := as.foldl State.act s

/-- What an instruction does in one state: its actions, the flags after it, and where it goes on, unless at the next
instruction. -/
structure Effect where
  actions : List Action := []
  flags : Flags
  target : Option Word := none

/-! ### The effects of the shared operations -/

def State.keepFlags (s : State) (as : List Action) : Effect := { actions := as, flags := s.f }

def State.jumpEffect (s : State) (as : List Action) (t : Word) : Effect := { actions := as, flags := s.f, target := some t }

def State.pairEffect (p : PairP) (r : Word × Flags) : Effect := { actions := [.pair p r.1], flags := r.2 }

def State.aluEffect (s : State) (o : AluOp) (x : Source8) : Effect :=
  { actions := (match x with
      | .hl => [.read s.hl]
      | _ => []) ++ [.reg .a (alu o s.a (s.source x).1 s.f).1]
    flags := (alu o s.a (s.source x).1 s.f).2 }

def State.modifyEffect (s : State) (x : Place8) (g : Byte → Flags → Byte × Flags) : Effect :=
  match x with
  | .reg r => { actions := [.reg r (g (s.reg r) s.f).1], flags := (g (s.reg r) s.f).2 }
  | .hl => { actions := [.read s.hl, .store s.hl (g (s.busByte s.hl) s.f).1], flags := (g (s.busByte s.hl) s.f).2 }

def State.modifyAEffect (s : State) (g : Byte → Flags → Byte × Flags) : Effect :=
  { actions := [.reg .a (g s.a s.f).1], flags := (g s.a s.f).2 }

def State.testEffect (s : State) (k : BitVec 3) (x : Place8) : Effect :=
  match x with
  | .reg r => { flags := bitFlags k (s.reg r) s.f }
  | .hl => { actions := [.read s.hl], flags := bitFlags k (s.busByte s.hl) s.f }

def State.pushActions (s : State) (v : Word) : List Action :=
  [.store (s.sp - 1) (hi8 v), .store (s.sp - 1 - 1) (lo8 v), .pair .sp (s.sp - 1 - 1)]

def State.popActions (s : State) : List Action := [.read s.sp, .read (s.sp + 1), .pair .sp (s.sp + 1 + 1)]

/-- The word on the stack. -/
def State.stackWord (s : State) : Word := joinBytes s.stackHi s.stackLo

def State.popEffect (s : State) (q : PairQ) : Effect :=
  match q with
  | .bc => s.keepFlags (s.popActions ++ [.pair .bc s.stackWord])
  | .de => s.keepFlags (s.popActions ++ [.pair .de s.stackWord])
  | .hl => s.keepFlags (s.popActions ++ [.pair .hl s.stackWord])
  | .af => { actions := s.popActions ++ [.reg .a (hi8 s.stackWord)], flags := Flags.ofByte (lo8 s.stackWord) }

end Sys2Proof.Machine

namespace Sys2Proof

open Sys2Proof.Machine

/-! ### The effect of each instruction -/

/-- The effect of an instruction read as a whole; the prefix row reads its own second byte first (`Instr.effect`). -/
def Instr.ownEffect (i : Instr) (s : State) : Effect :=
  match i with
  | .ldRR r q => s.keepFlags [.reg r (s.reg q)]
  | .ldHLR q => s.keepFlags [.store s.hl (s.reg q)]
  | .ldRHL r => s.keepFlags [.read s.hl, .reg r (s.busByte s.hl)]
  | .ldRN r n => s.keepFlags [.reg r n]
  | .ldHLN n => s.keepFlags [.store s.hl n]
  | .ldBCA => s.keepFlags [.store s.bc s.a]
  | .ldABC => s.keepFlags [.read s.bc, .reg .a (s.busByte s.bc)]
  | .ldDEA => s.keepFlags [.store s.de s.a]
  | .ldADE => s.keepFlags [.read s.de, .reg .a (s.busByte s.de)]
  | .ldHLIA => s.keepFlags [.store s.hl s.a, .pair .hl (s.hl + 1)]
  | .ldAHLI => s.keepFlags [.read s.hl, .reg .a (s.busByte s.hl), .pair .hl (s.hl + 1)]
  | .ldHLDA => s.keepFlags [.store s.hl s.a, .pair .hl (s.hl - 1)]
  | .ldAHLD => s.keepFlags [.read s.hl, .reg .a (s.busByte s.hl), .pair .hl (s.hl - 1)]
  | .ldNNA nn => s.keepFlags [.store nn s.a]
  | .ldANN nn => s.keepFlags [.read nn, .reg .a (s.busByte nn)]
  | .ldNA n => s.keepFlags [.store (ioAddr n) s.a]
  | .ldAN n => s.keepFlags [.read (ioAddr n), .reg .a (s.busByte (ioAddr n))]
  | .ldCA => s.keepFlags [.store (ioAddr s.c) s.a]
  | .ldAC => s.keepFlags [.read (ioAddr s.c), .reg .a (s.busByte (ioAddr s.c))]
  | .ldPpNN p nn => s.keepFlags [.pair p nn]
  | .ldNNSP nn => s.keepFlags [.store nn (lo8 s.sp), .store (nn + 1) (hi8 s.sp)]
  | .ldSPHL => s.keepFlags [.pair .sp s.hl]
  | .popQq q => s.popEffect q
  | .pushQq q => s.keepFlags (s.pushActions (s.pairQ q))
  | .incPp p => s.keepFlags [.pair p (s.pairP p + 1)]
  | .decPp p => s.keepFlags [.pair p (s.pairP p - 1)]
  | .addHLPp p => State.pairEffect .hl (add16 s.hl (s.pairP p) s.f)
  | .addSPE e => State.pairEffect .sp (addSp s.sp e)
  | .ldhlSPE e => State.pairEffect .hl (addSp s.sp e)
  | .incR r => s.modifyEffect (.reg r) inc8
  | .incHL => s.modifyEffect .hl inc8
  | .decR r => s.modifyEffect (.reg r) dec8
  | .decHL => s.modifyEffect .hl dec8
  | .addAR q => s.aluEffect .add (.reg q)
  | .addAHL => s.aluEffect .add .hl
  | .addAN n => s.aluEffect .add (.imm n)
  | .adcAR q => s.aluEffect .adc (.reg q)
  | .adcAHL => s.aluEffect .adc .hl
  | .adcAN n => s.aluEffect .adc (.imm n)
  | .subR q => s.aluEffect .sub (.reg q)
  | .subHL => s.aluEffect .sub .hl
  | .subN n => s.aluEffect .sub (.imm n)
  | .sbcAR q => s.aluEffect .sbc (.reg q)
  | .sbcAHL => s.aluEffect .sbc .hl
  | .sbcAN n => s.aluEffect .sbc (.imm n)
  | .cpR q => s.aluEffect .cp (.reg q)
  | .cpHL => s.aluEffect .cp .hl
  | .cpN n => s.aluEffect .cp (.imm n)
  | .andR q => s.aluEffect .and (.reg q)
  | .andHL => s.aluEffect .and .hl
  | .andN n => s.aluEffect .and (.imm n)
  | .xorR q => s.aluEffect .xor (.reg q)
  | .xorHL => s.aluEffect .xor .hl
  | .xorN n => s.aluEffect .xor (.imm n)
  | .orR q => s.aluEffect .or (.reg q)
  | .orHL => s.aluEffect .or .hl
  | .orN n => s.aluEffect .or (.imm n)
  | .daa => s.modifyAEffect daaAdjust
  | .rlca => s.modifyAEffect (rotFast .rlc)
  | .rrca => s.modifyAEffect (rotFast .rrc)
  | .rla => s.modifyAEffect (rotFast .rl)
  | .rra => s.modifyAEffect (rotFast .rr)
  | .rlR q => s.modifyEffect (.reg q) (rot8 .rl)
  | .rlHL => s.modifyEffect .hl (rot8 .rl)
  | .rlcR q => s.modifyEffect (.reg q) (rot8 .rlc)
  | .rlcHL => s.modifyEffect .hl (rot8 .rlc)
  | .rrR q => s.modifyEffect (.reg q) (rot8 .rr)
  | .rrHL => s.modifyEffect .hl (rot8 .rr)
  | .rrcR q => s.modifyEffect (.reg q) (rot8 .rrc)
  | .rrcHL => s.modifyEffect .hl (rot8 .rrc)
  | .slaR q => s.modifyEffect (.reg q) (rot8 .sla)
  | .slaHL => s.modifyEffect .hl (rot8 .sla)
  | .sraR q => s.modifyEffect (.reg q) (rot8 .sra)
  | .sraHL => s.modifyEffect .hl (rot8 .sra)
  | .srlR q => s.modifyEffect (.reg q) (rot8 .srl)
  | .srlHL => s.modifyEffect .hl (rot8 .srl)
  | .swapR q => s.modifyEffect (.reg q) (rot8 .swap)
  | .swapHL => s.modifyEffect .hl (rot8 .swap)
  | .bitR k q => s.testEffect k (.reg q)
  | .bitHL k => s.testEffect k .hl
  | .resR k q => s.modifyEffect (.reg q) (res8 k)
  | .resHL k => s.modifyEffect .hl (res8 k)
  | .setR k q => s.modifyEffect (.reg q) (set8 k)
  | .setHL k => s.modifyEffect .hl (set8 k)
  | .cpl => s.modifyAEffect cpl8
  | .rst t => s.jumpEffect (s.pushActions (s.pc + 1)) t
  | .callNN nn => s.jumpEffect (s.pushActions (s.pc + 3)) nn
  | .callCcNN cc nn => if s.cond cc then s.jumpEffect (s.pushActions (s.pc + 3)) nn else s.keepFlags []
  | .jpNN nn => s.jumpEffect [] nn
  | .jpHL => s.jumpEffect [] s.hl
  | .jpCcNN cc nn => if s.cond cc then s.jumpEffect [] nn else s.keepFlags []
  | .jrE e => s.jumpEffect [] (s.pc + 2 + sext16 e)
  | .jrCcE cc e => if s.cond cc then s.jumpEffect [] (s.pc + 2 + sext16 e) else s.keepFlags []
  | .ret => s.jumpEffect s.popActions s.stackWord
  | .retCc cc => if s.cond cc then s.jumpEffect s.popActions s.stackWord else s.keepFlags []
  | .reti => s.jumpEffect (s.popActions ++ [.ime true]) s.stackWord
  | .di => s.keepFlags [.ime false]
  | .ei => s.keepFlags [.ime true]
  | .halt => s.keepFlags [.run .halted]
  | .stop _ => s.keepFlags [.run .stopped]
  | .nop => s.keepFlags []
  | .scf => { flags := scfFlags s.f }
  | .ccf => { flags := ccfFlags s.platform.ccfH s.f }
  | .cbPrefix => s.keepFlags []
  | .unusedD3 | .unusedDB | .unusedDD | .unusedE3 | .unusedE4 | .unusedEB | .unusedEC | .unusedED | .unusedF4 | .unusedFC
  | .unusedFD => s.keepFlags [.run .locked]

/-- The effect of an instruction: the prefix row (R85) reads its second byte and then has the effect of that byte's cell. -/
def Instr.effect (i : Instr) (s : State) : Effect :=
  match i with
  | .cbPrefix =>
    let cell := (decodeCb (s.busByte (s.pc + 1))).ownEffect (s.afterRead (s.pc + 1))
    { actions := .read (s.pc + 1) :: cell.actions, flags := cell.flags, target := some (s.pc + 2) }
  | i => i.ownEffect s

/-- The cycles that the table of R308 gives an instruction in a state, and the prefix row the cycles of its cell. -/
def Instr.cyclesIn (i : Instr) (s : State) : Nat :=
  match cycleCounts i with
  | some (a, b) => if transferTaken i s then a else b
  | none => cbCycles (s.busByte (s.pc + 1))

/-- The state that an instruction leaves. -/
def Instr.after (i : Instr) (s : State) : State :=
  { s.acts (i.effect s).actions with
    f := (i.effect s).flags
    pc := (i.effect s).target.getD (s.pc + BitVec.ofNat 16 (encode i).length)
    cycles := s.cycles + i.cyclesIn s }

/-! ### The effects are those of `exec` -/

/-- Every instruction but the prefix row, whose cell is one of them, and a STOP that the platform refuses. -/
theorem exec_eq_after_of_ne (i : Instr) (s : State) (hcb : i ≠ .cbPrefix)
    (hstop : ∀ x, i = .stop x → s.platform.stopMode = .untilReset) : exec i s = .next (i.after s) := by
  cases i with
  | cbPrefix => exact absurd rfl hcb
  | ldRR r q | ldRN r n => cases r <;> rfl
  | ldRHL r | incR r | decR r | addAR r | adcAR r | subR r | sbcAR r | cpR r | andR r | xorR r | orR r
  | rlR r | rlcR r | rrR r | rrcR r | slaR r | sraR r | srlR r | swapR r => cases r <;> rfl
  | bitR k r | resR k r | setR k r => cases r <;> rfl
  | incPp p | decPp p | addHLPp p | ldPpNN p nn => cases p <;> rfl
  | popQq q => cases q <;> rfl
  | callCcNN cc nn | jpCcNN cc nn | jrCcE cc e | retCc cc =>
    cases h : s.cond cc <;>
      simp only [exec, execCallCcNN, execJpCcNN, execJrCcE, execRetCc, Instr.after, Instr.effect, Instr.ownEffect,
        Instr.cyclesIn, cycleCounts, transferTaken, h] <;>
      rfl
  | stop x =>
    rw [exec, execStop, hstop x rfl]
    rfl
  | _ => rfl

/-! ### The prefix row and its cells (R85) -/

theorem decodeCb_ne_cbPrefix (n : Byte) : decodeCb n ≠ .cbPrefix := by
  revert n
  decide

theorem decodeCb_ne_stop (n x : Byte) : decodeCb n ≠ .stop x := by
  unfold decodeCb decodeCbRot
  repeat' split
  all_goals nofun

theorem cycleCounts_decodeCb (n : Byte) : cycleCounts (decodeCb n) = some (cbCycles n, cbCycles n) := by
  revert n
  decide

/-- A cell of the CB map goes on at the next instruction. -/
theorem target_decodeCb (n : Byte) (s : State) : ((decodeCb n).ownEffect s).target = none := by
  unfold decodeCb decodeCbRot
  repeat' split
  all_goals rfl

theorem exec_decodeCbRot (n : Byte) (s : State) :
    exec (decodeCbRot n) s =
      .next ((s.advance 2 (match placeOfCode (fieldZ n) with
        | .reg _ => 2
        | .hl => 4)).modify (placeOfCode (fieldZ n)) (rot8 (rotOpOfCode (fieldY n)))) := by
  unfold decodeCbRot rotOpOfCode placeOfCode
  generalize (fieldY n).toNat = y
  rcases y with _ | _ | _ | _ | _ | _ | _ | y <;> cases regOfCode (fieldZ n) <;> rfl

theorem exec_decodeCb (n : Byte) (s : State) : exec (decodeCb n) s = .next (s.cbCell n) := by
  have hblock : fieldX n = 0#2 ∨ fieldX n = 1#2 ∨ fieldX n = 2#2 ∨ fieldX n = 3#2 := by revert n; decide
  unfold decodeCb State.cbCell cbCycles
  rcases hblock with hx | hx | hx | hx <;> rw [hx]
  · exact exec_decodeCbRot n s
  all_goals
    unfold placeOfCode
    cases regOfCode (fieldZ n) <;> rfl

/-- Settles O17: `exec_decodeCb` on the second byte, read before. -/
theorem cbPrefixRunsItsCell : Obligations.CbPrefixRunsItsCell := by
  intro s
  exact ⟨(exec_decodeCb _ (s.afterRead (s.pc + 1))).symm, _, rfl⟩

theorem effect_eq_ownEffect {i : Instr} (hcb : i ≠ .cbPrefix) (s : State) : i.effect s = i.ownEffect s := by
  unfold Instr.effect
  split
  · exact absurd rfl hcb
  · rfl

theorem cyclesIn_decodeCb (n : Byte) (s : State) : (decodeCb n).cyclesIn s = cbCycles n := by
  rw [Instr.cyclesIn, cycleCounts_decodeCb]
  exact ite_self _

/-- The prefix row leaves the state that its cell leaves. -/
theorem after_cbPrefix (s : State) :
    Instr.after .cbPrefix s = (decodeCb (s.busByte (s.pc + 1))).after (s.afterRead (s.pc + 1)) := by
  obtain ⟨hcell, -⟩ := encode_decodeCb (s.busByte (s.pc + 1))
  rw [Instr.after, Instr.after, effect_eq_ownEffect (decodeCb_ne_cbPrefix _), target_decodeCb, cyclesIn_decodeCb, hcell]
  rfl

/-- What every instruction does, as its effect says. -/
theorem exec_eq_after (i : Instr) (s : State) (hstop : ∀ x, i = .stop x → s.platform.stopMode = .untilReset) :
    exec i s = .next (i.after s) := by
  by_cases hcb : i = .cbPrefix
  · subst hcb
    rw [(cbPrefixRunsItsCell s).1, exec_eq_after_of_ne _ _ (decodeCb_ne_cbPrefix _) fun x h => absurd h (decodeCb_ne_stop _ x),
      after_cbPrefix]
  · exact exec_eq_after_of_ne i s hcb hstop

theorem exec_stop_refused {s : State} (h : s.platform.stopMode = .refuse) (x : Byte) :
    exec (.stop x) s = .refused .stopRefused := by
  rw [exec, execStop, h]

/-- An instruction leaves the state that its effect says, or is a STOP that the platform has refused (log 7). -/
theorem exec_cases (i : Instr) (s : State) :
    exec i s = .next (i.after s) ∨ (exec i s = .refused .stopRefused ∧ s.platform.stopMode = .refuse) := by
  cases hmode : s.platform.stopMode with
  | untilReset => exact .inl (exec_eq_after i s fun _ _ => hmode)
  | refuse =>
    by_cases hstop : ∃ x, i = .stop x
    · obtain ⟨x, rfl⟩ := hstop
      exact .inr ⟨exec_stop_refused hmode x, rfl⟩
    · exact .inl (exec_eq_after i s fun x hx => absurd ⟨x, hx⟩ hstop)

theorem eq_after_of_exec {i : Instr} {s t : State} (h : exec i s = .next t) : t = i.after s := by
  obtain hnext | ⟨hrefused, -⟩ := exec_cases i s
  · exact Host.Outcome.next.inj (h.symm.trans hnext)
  · rw [hrefused] at h
    cases h

end Sys2Proof
end

section
/-! What the elementary actions keep, and what follows for every instruction and every step: the canonical form of memory, the
platform, the environment's answers, and that the bus history and the cycle count only grow. -/

namespace Sys2Proof.Machine

/-! ### One action, and a list of them -/

@[simp] theorem State.acts_nil (s : State) : s.acts [] = s := rfl

@[simp] theorem State.acts_cons (s : State) (a : Action) (as : List Action) : s.acts (a :: as) = (s.act a).acts as := rfl

/-- A part of the state that each action of a list keeps, the list keeps. -/
theorem State.acts_keeps {α : Type} {part : State → α} {as : List Action} (s : State)
    (h : ∀ a ∈ as, ∀ t : State, part (t.act a) = part t) : part (s.acts as) = part s := by
  induction as generalizing s with
  | nil => rfl
  | cons a as ih =>
    obtain ⟨ha, has⟩ := List.forall_mem_cons.1 h
    rw [s.acts_cons, ih _ has, ha]

@[simp] theorem State.act_platform (s : State) (a : Action) : (s.act a).platform = s.platform := by
  cases a with
  | reg r v => exact s.setReg_platform r v
  | pair p v => exact s.setPairP_platform p v
  | _ => rfl

@[simp] theorem State.act_inputs (s : State) (a : Action) : (s.act a).inputs = s.inputs := by
  cases a with
  | reg r v => exact s.setReg_inputs r v
  | pair p v => exact s.setPairP_inputs p v
  | _ => rfl

theorem State.inv_act {s : State} (h : s.Inv) (a : Action) : (s.act a).Inv := by
  cases a with
  | store x v => exact State.inv_memWrite h x v
  | reg r v => exact State.inv_of_mem h (s.setReg_mem r v)
  | pair p v => exact State.inv_of_mem h (s.setPairP_mem p v)
  | _ => exact State.inv_of_mem h rfl

theorem State.inv_acts {s : State} (h : s.Inv) (as : List Action) : (s.acts as).Inv := by
  induction as generalizing s with
  | nil => exact h
  | cons a as ih => exact ih (State.inv_act h a)

/-! ### The bus history only grows (R59) -/

theorem State.bus_suffix_busAfterRead (s : State) (x : Word) : s.bus <:+ s.busAfterRead x := by
  rw [State.busAfterRead]
  split
  · exact List.suffix_cons _ _
  · exact List.suffix_rfl

theorem State.bus_suffix_memWrite (s : State) (x : Word) (v : Byte) : s.bus <:+ (s.memWrite x v).bus := by
  rw [s.memWrite_bus]
  split
  · exact List.suffix_cons _ _
  · exact List.suffix_rfl

theorem State.bus_suffix_act (s : State) (a : Action) : s.bus <:+ (s.act a).bus := by
  cases a with
  | read x => exact s.bus_suffix_busAfterRead x
  | store x v => exact s.bus_suffix_memWrite x v
  | reg r v => exact (s.setReg_bus r v).symm ▸ List.suffix_rfl
  | pair p v => exact (s.setPairP_bus p v).symm ▸ List.suffix_rfl
  | _ => exact List.suffix_rfl

theorem State.bus_suffix_acts (s : State) (as : List Action) : s.bus <:+ (s.acts as).bus := by
  induction as generalizing s with
  | nil => exact List.suffix_rfl
  | cons a as ih => exact (s.bus_suffix_act a).trans (ih (s.act a))

/-! ### The environment of the CPU: what every instruction and every boundary leaves of it -/

/-- `t` may follow `s` with no boundary between: one platform, the same answers to come, and a bus history and a cycle count that
have not shrunk. -/
structure Follows (s t : State) : Prop where
  platform : t.platform = s.platform
  inputs : t.inputs = s.inputs
  cycles : s.cycles ≤ t.cycles
  bus : s.bus <:+ t.bus

theorem Follows.trans {s t u : State} (h₁ : Follows s t) (h₂ : Follows t u) : Follows s u :=
  ⟨h₂.platform.trans h₁.platform, h₂.inputs.trans h₁.inputs, h₁.cycles.trans h₂.cycles, h₁.bus.trans h₂.bus⟩

theorem follows_run (s : State) (r : RunState) : Follows s { s with run := r } :=
  ⟨rfl, rfl, le_rfl, List.suffix_rfl⟩

theorem follows_afterRead (s : State) (x : Word) : Follows s (s.afterRead x) :=
  ⟨rfl, rfl, le_rfl, s.bus_suffix_busAfterRead x⟩

theorem follows_fetch (s : State) : Follows s s.fetch.2 := by
  have hread (k : State) (x : Word) := follows_afterRead k x
  rw [s.fetch_eq]
  dsimp only
  split_ifs
  · exact hread _ _
  · exact (hread _ _).trans (hread _ _)
  · exact ((hread _ _).trans (hread _ _)).trans (hread _ _)

theorem follows_push16 (s : State) (v : Word) : Follows s (s.push16 v) where
  platform := s.push16_platform v
  inputs := s.push16_inputs v
  cycles := (s.push16_cycles v).ge
  bus := (State.bus_suffix_memWrite { s with sp := s.sp - 1 } (s.sp - 1) (hi8 v)).trans (State.bus_suffix_memWrite _ _ _)

theorem follows_interruptEntry (s : State) (i : Nat) : Follows s (s.interruptEntry i) where
  platform := s.interruptEntry_platform i
  inputs := s.interruptEntry_inputs i
  cycles := Nat.le_add_right _ _
  bus := (List.suffix_cons _ _).trans (follows_push16 { s with ime := false, bus := .ack i :: s.bus } s.pc).bus

end Sys2Proof.Machine

namespace Sys2Proof

open Sys2Proof.Machine

theorem Instr.inv_after {s : State} (h : s.Inv) (i : Instr) : (i.after s).Inv :=
  State.inv_of_mem (State.inv_acts h (i.effect s).actions) rfl

theorem Instr.follows_after (i : Instr) (s : State) : Follows s (i.after s) where
  platform := s.acts_keeps fun a _ t => t.act_platform a
  inputs := s.acts_keeps fun a _ t => t.act_inputs a
  cycles := Nat.le_add_right _ _
  bus := s.bus_suffix_acts (i.effect s).actions

/-! ### The step -/

/-- What a step answers: a reset, an interrupt entry or the state as it was, each at the end of a boundary, or the state that the
instruction fetched after the boundary leaves. -/
theorem step_next_cases {s t : State} (h : step s = .next t) :
    t = s.boundaryPassed.resetEvent ∨ t = s.boundaryPassed ∨
    (∃ r i, t = State.interruptEntry { s.boundaryPassed with run := r } i) ∨
    ∃ r, t = (State.fetch { s.boundaryPassed with run := r }).1.after (State.fetch { s.boundaryPassed with run := r }).2 := by
  obtain ⟨u, hends, hstep⟩ | ⟨u, hexecutes, hstep⟩ := step_cases s
  · obtain rfl : t = u := Host.Outcome.next.inj (h.symm.trans hstep)
    obtain hb | ⟨i, r, hb⟩ | ⟨r, hb⟩ | hb := s.boundary_cases <;> rw [hb] at hends <;> cases hends
    · exact .inl rfl
    · exact .inr (.inr (.inl ⟨r, i, rfl⟩))
    · exact .inr (.inl rfl)
  · have hafter := eq_after_of_exec (hstep.symm.trans h)
    obtain hb | ⟨i, r, hb⟩ | ⟨r, hb⟩ | hb := s.boundary_cases <;> rw [hb] at hexecutes <;> cases hexecutes
    exact .inr (.inr (.inr ⟨r, hafter⟩))

/-- Settles O51: no boundary but an interrupt entry touches memory, and each action of an instruction keeps its canonical form. -/
theorem memoryInvariantKept : Obligations.MemoryInvariantKept := by
  intro s t hs h
  obtain rfl | rfl | ⟨r, i, rfl⟩ | ⟨r, rfl⟩ := step_next_cases h
  · exact State.inv_of_mem hs rfl
  · exact State.inv_of_mem hs rfl
  · exact State.inv_interruptEntry (State.inv_of_mem hs rfl) i
  · refine Instr.inv_after (State.inv_of_mem hs ?_) _
    rw [State.fetch_state]
    rfl

/-- Settles O52: the boundary always answers, and the one instruction that may not is a refused STOP. -/
theorem stepNeverFaults : Obligations.StepNeverFaults := by
  intro s
  obtain ⟨t, -, hstep⟩ | ⟨u, hexecutes, hstep⟩ := step_cases s
  · exact .inl ⟨t, hstep⟩
  · rw [hstep]
    obtain hb | ⟨i, r, hb⟩ | ⟨r, hb⟩ | hb := s.boundary_cases <;> rw [hb] at hexecutes <;> cases hexecutes
    obtain hnext | ⟨hrefused, hmode⟩ := exec_cases _ _
    · exact .inl ⟨_, hnext⟩
    · have hplatform := ((follows_run s.boundaryPassed r).trans (follows_fetch _)).platform
      exact .inr ⟨hrefused, (congrArg Platform.stopMode hplatform).symm.trans hmode⟩

/-- Settles O53: the boundary uses up one answer, and what comes after it follows in the sense of `Follows`. -/
theorem stepFrame : Obligations.StepFrame := by
  intro s t h
  have hfollows : Follows s.boundaryPassed t := by
    obtain rfl | rfl | ⟨r, i, rfl⟩ | ⟨r, rfl⟩ := step_next_cases h
    · exact ⟨rfl, rfl, le_rfl, List.suffix_rfl⟩
    · exact ⟨rfl, rfl, le_rfl, List.suffix_rfl⟩
    · exact (follows_run s.boundaryPassed r).trans (follows_interruptEntry _ i)
    · exact ((follows_run s.boundaryPassed r).trans (follows_fetch _)).trans (Instr.follows_after _ _)
  obtain ⟨es, hes⟩ := hfollows.bus
  exact ⟨hfollows.platform, hfollows.inputs, hfollows.cycles, es, hes.symm⟩

end Sys2Proof
end

section
/-! The tables of the whole machine: cycle counts (R308), flag columns (R35), the readers of flags (R36), and the writers of
memory (R53), ime (R29), the run state (R30) and SP (R27). Each is read off the effects row by row. -/

namespace Sys2Proof.Machine

/-! ### Flag columns as functions of the flag before and the flag computed (R11) -/

/-- The flag after an instruction whose column is `k`. -/
def FlagColumn.outcome (k : FlagColumn) (before computed : Bool) : Bool :=
  match k with
  | .keep => before
  | .clear => false
  | .set => true
  | .computed => computed

theorem FlagColumn.obeyed_iff (k : FlagColumn) (before after : Bool) :
    k.obeyed before after ↔ after = k.outcome before after := by
  cases k with
  | computed => exact iff_of_true trivial rfl
  | _ => rfl

/-- The flag written, and the flag before only where the column says so. -/
def FlagColumn.overlay (k : FlagColumn) (before written : Bool) : Bool :=
  match k with
  | .keep => before
  | _ => written

theorem FlagColumn.overlay_eq_ite (k : FlagColumn) (before written : Bool) :
    k.overlay before written = if k = .keep then before else written := by
  cases k <;> rfl

def FlagColumns.outcome (k : FlagColumns) (before computed : Flags) : Flags :=
  { z := k.z.outcome before.z computed.z, n := k.n.outcome before.n computed.n
    h := k.h.outcome before.h computed.h, c := k.c.outcome before.c computed.c }

def FlagColumns.overlay (k : FlagColumns) (before written : Flags) : Flags :=
  { z := k.z.overlay before.z written.z, n := k.n.overlay before.n written.n
    h := k.h.overlay before.h written.h, c := k.c.overlay before.c written.c }

/-! ### What an action writes -/

def Action.keepsMemory : Action → Bool
  | .store _ _ => false
  | _ => true

def Action.keepsIme : Action → Bool
  | .ime _ => false
  | _ => true

def Action.keepsRun : Action → Bool
  | .run _ => false
  | _ => true

def Action.keepsSP : Action → Bool
  | .pair .sp _ => false
  | _ => true

theorem Action.act_mem {a : Action} (h : a.keepsMemory = true) (s : State) : (s.act a).mem = s.mem := by
  cases a with
  | store x v => cases h
  | reg r v => exact s.setReg_mem r v
  | pair p v => exact s.setPairP_mem p v
  | _ => rfl

theorem Action.act_ime {a : Action} (h : a.keepsIme = true) (s : State) : (s.act a).ime = s.ime := by
  cases a with
  | ime b => cases h
  | reg r v => exact s.setReg_ime r v
  | pair p v => exact s.setPairP_ime p v
  | _ => rfl

theorem Action.act_run {a : Action} (h : a.keepsRun = true) (s : State) : (s.act a).run = s.run := by
  cases a with
  | run r => cases h
  | reg r v => exact s.setReg_run r v
  | pair p v => exact s.setPairP_run p v
  | _ => rfl

theorem Action.act_sp {a : Action} (h : a.keepsSP = true) (s : State) : (s.act a).sp = s.sp := by
  cases a with
  | reg r v => exact s.setReg_sp r v
  | pair p v =>
    cases p with
    | sp => cases h
    | _ => rfl
  | _ => rfl

/-- A part of the state that the actions marked by `keeps` keep, a list of them keeps. -/
theorem State.acts_keeps_of_all {α : Type} {part : State → α} {keeps : Action → Bool} {as : List Action} (s : State)
    (hact : ∀ a, keeps a = true → ∀ t : State, part (t.act a) = part t) (has : as.all keeps = true) :
    part (s.acts as) = part s :=
  s.acts_keeps fun a ha => hact a (List.all_eq_true.1 has a ha)

/-- An action that keeps memory tells the bus of a read or of nothing (R59). -/
theorem Action.act_bus {a : Action} (h : a.keepsMemory = true) (s : State) :
    ∃ xs : List Word, (s.act a).bus = xs.map BusEvent.read ++ s.bus := by
  cases a with
  | read x =>
    cases hx : platformOwns s.platform x
    · exact ⟨[], by simp [State.act, State.busAfterRead, hx]⟩
    · exact ⟨[x], by simp [State.act, State.busAfterRead, hx]⟩
  | store x v => cases h
  | reg r v => exact ⟨[], s.setReg_bus r v⟩
  | pair p v => exact ⟨[], s.setPairP_bus p v⟩
  | _ => exact ⟨[], rfl⟩

theorem State.acts_bus {as : List Action} (s : State) (has : as.all Action.keepsMemory = true) :
    ∃ xs : List Word, (s.acts as).bus = xs.map BusEvent.read ++ s.bus := by
  induction as generalizing s with
  | nil => exact ⟨[], rfl⟩
  | cons a as ih =>
    obtain ⟨ha, has⟩ := (Bool.and_eq_true _ _).mp (List.all_cons ▸ has)
    obtain ⟨xs, hxs⟩ := Action.act_bus ha s
    obtain ⟨ys, hys⟩ := ih (s.act a) has
    exact ⟨ys ++ xs, by rw [s.acts_cons, hys, hxs, List.map_append, List.append_assoc]⟩

/-! ### Actions and F -/

/-- No action reads or writes F. -/
theorem State.act_withFlags (s : State) (g : Flags) (a : Action) : State.act { s with f := g } a = { s.act a with f := g } := by
  cases a with
  | reg r v => cases r <;> rfl
  | pair p v => cases p <;> rfl
  | _ => rfl

theorem State.acts_withFlags (s : State) (g : Flags) (as : List Action) :
    State.acts { s with f := g } as = { s.acts as with f := g } := by
  induction as generalizing s with
  | nil => rfl
  | cons a as ih => rw [State.acts_cons, State.acts_cons, State.act_withFlags, ih]

end Sys2Proof.Machine

namespace Sys2Proof

open Sys2Proof.Machine

/-! ### Flag columns -/

theorem flags_effect (i : Instr) (s : State) :
    (i.effect s).flags = (flagColumns i).outcome s.f (i.effect s).flags := by
  cases i with
  | popQq q => cases q <;> rfl
  | callCcNN cc nn | jpCcNN cc nn | jrCcE cc e | retCc cc =>
    simp only [Instr.effect, Instr.ownEffect]
    split <;> rfl
  | _ => rfl

/-- Settles O54, by `flags_effect`. -/
theorem flagColumnsObeyed : Obligations.FlagColumnsObeyed := by
  intro i s t h
  obtain rfl := eq_after_of_exec h
  have hflags : (i.after s).f = (flagColumns i).outcome s.f (i.after s).f := flags_effect i s
  simp only [FlagColumn.obeyed_iff]
  exact ⟨congrArg Flags.z hflags, congrArg Flags.n hflags, congrArg Flags.h hflags, congrArg Flags.c hflags⟩

/-! ### The readers of flags -/

/-- The effect of an instruction that reads no flag is the same for any F, but for the flags that it keeps. -/
theorem effect_withFlags {i : Instr} (hi : readsFlags i = false) (s : State) (g : Flags) :
    i.effect { s with f := g } = { i.effect s with flags := (flagColumns i).overlay g (i.effect s).flags } := by
  cases i with
  | adcAR q | adcAHL | adcAN n | sbcAR q | sbcAHL | sbcAN n | rla | rra | rlR q | rlHL | rrR q | rrHL | daa | ccf
  | callCcNN cc nn | jpCcNN cc nn | jrCcE cc e | retCc cc | cbPrefix => cases hi
  | pushQq q =>
    cases q with
    | af => cases hi
    | _ => rfl
  | popQq q => cases q <;> rfl
  | _ => rfl

theorem cyclesIn_withFlags {i : Instr} (hi : readsFlags i = false) (s : State) (g : Flags) :
    i.cyclesIn { s with f := g } = i.cyclesIn s := by
  cases i with
  | callCcNN cc nn | jpCcNN cc nn | jrCcE cc e | retCc cc => cases hi
  | _ => rfl

/-- Settles O58: the actions and the target of the two effects are the same, and no action reads or writes F. -/
theorem flagsReadOnlyByTheirReaders : Obligations.FlagsReadOnlyByTheirReaders := by
  intro i s t g hi h
  have hstop : ∀ x, i = .stop x → s.platform.stopMode = .untilReset := by
    rintro x rfl
    cases hmode : s.platform.stopMode with
    | untilReset => rfl
    | refuse => rw [exec_stop_refused hmode] at h; cases h
  obtain rfl := eq_after_of_exec h
  refine ⟨i.after { s with f := g }, exec_eq_after i _ hstop, ?_, ?_⟩
  · rw [Instr.after, effect_withFlags hi, cyclesIn_withFlags hi, State.acts_withFlags]
    rfl
  · have hflags : (i.after { s with f := g }).f = (flagColumns i).overlay g (i.after s).f :=
      congrArg Effect.flags (effect_withFlags hi s g)
    simp only [← FlagColumn.overlay_eq_ite]
    exact ⟨congrArg Flags.z hflags, congrArg Flags.n hflags, congrArg Flags.h hflags, congrArg Flags.c hflags⟩

/-! ### The writers of memory -/

theorem keepsMemory_effect (i : Instr) (s : State) :
    (mayStore i || (i.effect s).actions.all Action.keepsMemory) = true := by
  cases i with
  | popQq q => cases q <;> rfl
  | jpCcNN cc nn | jrCcE cc e | retCc cc =>
    simp only [Instr.effect, Instr.ownEffect]
    split <;> rfl
  | _ => rfl

/-- Settles O57, by `keepsMemory_effect`. -/
theorem onlyStoresWriteMemory : Obligations.OnlyStoresWriteMemory := by
  intro i s t hi h
  obtain rfl := eq_after_of_exec h
  have hkeeps := keepsMemory_effect i s
  rw [hi, Bool.false_or] at hkeeps
  exact ⟨s.acts_keeps_of_all (fun a ha => Action.act_mem ha) hkeeps, s.acts_bus hkeeps⟩

/-! ### The writers of ime, the run state and SP -/

/-- A cell of the CB map writes registers and memory only. -/
theorem keepsControl_decodeCb (n : Byte) (s : State) :
    ((decodeCb n).ownEffect s).actions.all Action.keepsIme = true ∧
    ((decodeCb n).ownEffect s).actions.all Action.keepsRun = true ∧
    ((decodeCb n).ownEffect s).actions.all Action.keepsSP = true := by
  unfold decodeCb decodeCbRot
  repeat' split
  all_goals exact ⟨rfl, rfl, rfl⟩

theorem keepsIme_effect {i : Instr} (hdi : i ≠ .di) (hei : i ≠ .ei) (hreti : i ≠ .reti) (s : State) :
    (i.effect s).actions.all Action.keepsIme = true := by
  cases i with
  | di => exact absurd rfl hdi
  | ei => exact absurd rfl hei
  | reti => exact absurd rfl hreti
  | popQq q => cases q <;> rfl
  | callCcNN cc nn | jpCcNN cc nn | jrCcE cc e | retCc cc =>
    simp only [Instr.effect, Instr.ownEffect]
    split <;> rfl
  | cbPrefix =>
    obtain ⟨hime, -, -⟩ := keepsControl_decodeCb (s.busByte (s.pc + 1)) (s.afterRead (s.pc + 1))
    exact hime
  | _ => rfl

theorem keepsRun_effect {i : Instr} (hhalt : i ≠ .halt) (hstop : ∀ x, i ≠ .stop x) (hunused : i ∉ unusedInstrs) (s : State) :
    (i.effect s).actions.all Action.keepsRun = true := by
  cases i with
  | halt => exact absurd rfl hhalt
  | stop x => exact absurd rfl (hstop x)
  | unusedD3 | unusedDB | unusedDD | unusedE3 | unusedE4 | unusedEB | unusedEC | unusedED | unusedF4 | unusedFC | unusedFD =>
    exact absurd (by decide) hunused
  | popQq q => cases q <;> rfl
  | callCcNN cc nn | jpCcNN cc nn | jrCcE cc e | retCc cc =>
    simp only [Instr.effect, Instr.ownEffect]
    split <;> rfl
  | cbPrefix =>
    obtain ⟨-, hrun, -⟩ := keepsControl_decodeCb (s.busByte (s.pc + 1)) (s.afterRead (s.pc + 1))
    exact hrun
  | _ => rfl

theorem keepsSP_effect (i : Instr) (s : State) : (writesSP i || (i.effect s).actions.all Action.keepsSP) = true := by
  cases i with
  | ldPpNN p nn | incPp p | decPp p => cases p <;> rfl
  | jpCcNN cc nn | jrCcE cc e =>
    simp only [Instr.effect, Instr.ownEffect]
    split <;> rfl
  | cbPrefix =>
    obtain ⟨-, -, hsp⟩ := keepsControl_decodeCb (s.busByte (s.pc + 1)) (s.afterRead (s.pc + 1))
    exact hsp
  | _ => rfl

/-- Settles O55: what is not in the table has no action that writes ime, the run state or SP. -/
theorem controlStateWriters : Obligations.ControlStateWriters := by
  intro i s t h
  obtain rfl := eq_after_of_exec h
  refine ⟨fun hdi hei hreti => ?_, fun hhalt hstop hunused => ?_, fun hsp => ?_⟩
  · exact s.acts_keeps_of_all (fun a ha => Action.act_ime ha) (keepsIme_effect hdi hei hreti s)
  · exact s.acts_keeps_of_all (fun a ha => Action.act_run ha) (keepsRun_effect hhalt hstop hunused s)
  · have hkeeps := keepsSP_effect i s
    rw [hsp, Bool.false_or] at hkeeps
    exact s.acts_keeps_of_all (fun a ha => Action.act_sp ha) hkeeps

/-! ### Cycle counts -/

theorem Instr.cyclesIn_of_cycleCounts {i : Instr} {a b : Nat} (h : cycleCounts i = some (a, b)) (s : State) :
    i.cyclesIn s = if transferTaken i s then a else b := by
  rw [Instr.cyclesIn, h]

/-- Settles O56: an effect counts the cycles of the table, and the prefix row those of its cell. -/
theorem cycleCounts : Obligations.CycleCounts := by
  intro i s t h
  obtain rfl := eq_after_of_exec h
  refine ⟨fun a b hrow => congrArg _ (Instr.cyclesIn_of_cycleCounts hrow s), ?_⟩
  rintro rfl a b hrow
  rw [cycleCounts_decodeCb] at hrow
  obtain ⟨rfl, -⟩ := Prod.mk.inj (Option.some.inj hrow)
  rfl

end Sys2Proof
end

section
/-! Stores and the stack (`20_memory.md` R52 to R58): a store to plain memory and one to the bus, a pop of what has been pushed, and
the instructions that are a push, a pop or a store of two bytes. -/

namespace Sys2Proof.Machine

/-! ### A store to plain memory, and one elsewhere (R52) -/

theorem State.memWrite_of_plain {s : State} {x : Word} (h : s.plain x) (v : Byte) :
    s.memWrite x v = { s with mem := s.mem.write x v } := by
  rw [State.plain] at h
  simp [State.memWrite, h]

theorem State.memWrite_of_owned {s : State} {x : Word} (h : platformOwns s.platform x = true) (v : Byte) :
    s.memWrite x v = { s with bus := .write x v :: s.bus } := by
  simp [State.memWrite, h]

theorem State.busByte_of_plain {s : State} {x : Word} (h : s.plain x) : s.busByte x = s.mem.read x := by
  rw [State.plain] at h
  simp [State.busByte, h]

theorem State.busAfterRead_of_plain {s : State} {x : Word} (h : s.plain x) : s.busAfterRead x = s.bus := by
  rw [State.plain] at h
  simp [State.busAfterRead, h]

theorem State.afterRead_of_plain {s : State} {x : Word} (h : s.plain x) : s.afterRead x = s := by
  rw [State.afterRead, State.busAfterRead_of_plain h]

/-- A store to plain memory changes no byte but its own, whatever owns the other address. -/
theorem State.busByte_memWrite_of_ne {s : State} {x y : Word} (h : s.plain x) (v : Byte) (hy : y ≠ x) :
    (s.memWrite x v).busByte y = s.busByte y := by
  rw [State.memWrite_of_plain h]
  simp only [State.busByte, Memory.read_write_other _ hy]

/-! ### A pop of what has been pushed (R58) -/

/-- The two bytes at the top of the stack have been stored there, and nothing else since: the pop gives their word back and touches
only SP. -/
theorem State.pop16_of_stores {s t : State} {v : Word} (hplatform : t.platform = s.platform) (hlo : s.plain t.sp)
    (hhi : s.plain (t.sp + 1)) (h : Stores s t [(t.sp, lo8 v), (t.sp + 1, hi8 v)]) :
    t.pop16 = (v, { t with sp := t.sp + 2 }) ∧ t.bus = s.bus := by
  obtain ⟨hread, hbus⟩ := h
  have hne : t.sp + 1 ≠ t.sp := by bv_omega
  have hplo : t.plain t.sp := (congrArg (platformOwns · t.sp) hplatform).trans hlo
  have hphi : t.plain (t.sp + 1) := (congrArg (platformOwns · (t.sp + 1)) hplatform).trans hhi
  have hstackLo : t.stackLo = lo8 v := by
    rw [State.stackLo, State.busByte_of_plain hplo, hread]
    exact if_pos ⟨rfl, hlo⟩
  have hstackHi : t.stackHi = hi8 v := by
    rw [State.stackHi, State.afterRead_of_plain hplo, State.busByte_of_plain hphi, hread, storedByte, storedByte,
      if_neg (fun h => hne h.1), if_pos ⟨rfl, hhi⟩]
  refine ⟨?_, ?_⟩
  · rw [State.pop16_spec, hstackLo, hstackHi, joinBytes_hi8_lo8, State.busAfterPop, State.afterRead_of_plain hplo,
      State.busAfterRead_of_plain hphi]
  · rw [State.plain] at hlo hhi
    simp only [hbus, busAfterWrites, hlo, hhi, Bool.false_eq_true, if_false]

/-- A pair written with its own value. -/
theorem State.setPairQ_pairQ_self (s : State) (q : PairQ) : s.setPairQ q (s.pairQ q) = s := by
  cases q with
  | bc => exact s.setBC_append s.b s.c
  | de => exact s.setDE_append s.d s.e
  | hl => exact s.setHL_append s.h s.l
  | af =>
    simp only [State.setPairQ, State.pairQ, State.setAF, State.af, hi8_joinBytes, lo8_joinBytes, Flags.ofByte_toByte]

end Sys2Proof.Machine

namespace Sys2Proof

open Sys2Proof.Machine

/-- Settles O8: `memWrite` is a write of plain memory or an entry of the bus history. -/
theorem memoryReadAfterWrite : Obligations.MemoryReadAfterWrite := by
  refine fun s a v hs => ⟨rfl, fun hplain => ⟨?_, ?_, fun x hx => State.busByte_memWrite_of_ne hplain v hx⟩, fun howned => ?_⟩
  · have hplain' : (s.memWrite a v).plain a := hplain
    rw [State.busByte_of_plain hplain', State.memWrite_of_plain hplain]
    exact Memory.read_write_same hs a v
  · rw [State.memWrite_of_plain hplain]
  · rw [State.memWrite_of_owned howned]
    exact ⟨rfl, rfl⟩

/-! ### Single stores of two bytes -/

/-- Settles O22: `LD (nn),SP` is `memWrite2` on the state moved past the instruction. -/
theorem storeStackPointer : Obligations.StoreStackPointer := by
  intro nn s hs
  obtain ⟨hframe, hstores⟩ := State.memWrite2_spec (s := s.advance 3 5) hs nn s.sp
  rw [lo8_eq_setWidth, hi8_eq_setWidth] at hstores
  exact ⟨_, rfl, hframe, hstores⟩

/-- A push by an instruction that moves PC first: the store and the frame do not depend on PC. -/
theorem push16_advance_spec {s : State} (hs : s.Inv) (n k : Nat) (v : Word) :
    (s.advance n k).push16 v = { s with
        sp := s.sp - 2, pc := s.pc + BitVec.ofNat 16 n, cycles := s.cycles + k
        mem := ((s.advance n k).push16 v).mem, bus := ((s.advance n k).push16 v).bus } ∧
      Stores s ((s.advance n k).push16 v) [(s.sp - 2, lo8 v), (s.sp - 1, hi8 v)] :=
  State.push16_spec (s := s.advance n k) hs v

/-- Settles O24: the word pushed is the pair, its first register the high byte. -/
theorem pushStoresPair : Obligations.PushStoresPair := by
  intro s hs q hi lo hq
  have hpair : s.pairQ q = joinBytes hi lo := by
    simp only [List.mem_cons, Prod.mk.injEq, List.not_mem_nil, or_false] at hq
    obtain ⟨rfl, rfl, rfl⟩ | ⟨rfl, rfl, rfl⟩ | ⟨rfl, rfl, rfl⟩ | ⟨rfl, rfl, rfl⟩ := hq <;> rfl
  obtain ⟨hframe, hstores⟩ := push16_advance_spec hs 1 4 (s.pairQ q)
  refine ⟨_, rfl, hframe, ?_⟩
  rw [hpair, lo8_joinBytes, hi8_joinBytes] at hstores
  rw [hpair]
  exact hstores

/-! ### Calls and returns (R230 to R242) -/

theorem Machine.State.spend_advance (s : State) (n k j : Nat) : (s.advance n k).spend j = s.advance n (k + j) := by
  simp only [State.advance, State.spend, Nat.add_assoc]

theorem exec_rst (t : Word) (s : State) : exec (.rst t) s = .next ((s.advance 1 4).call t) := rfl

theorem exec_callNN (nn : Word) (s : State) : exec (.callNN nn) s = .next ((s.advance 3 6).call nn) := rfl

theorem exec_callCcNN (cc : Cond) (nn : Word) (s : State) :
    exec (.callCcNN cc nn) s = .next (if s.cond cc then (s.advance 3 6).call nn else s.advance 3 3) := by
  rw [exec, execCallCcNN, State.spend_advance]
  split <;> rfl

/-- A call by an instruction that moves PC first: the word pushed is the address after the instruction. -/
theorem call_advance_spec {s : State} (hs : s.Inv) (n k : Nat) (t : Word) :
    (s.advance n k).call t = { s with
        sp := s.sp - 2, pc := t, cycles := s.cycles + k
        mem := ((s.advance n k).call t).mem, bus := ((s.advance n k).call t).bus } ∧
      Stores s ((s.advance n k).call t)
        [(s.sp - 2, lo8 (s.pc + BitVec.ofNat 16 n)), (s.sp - 1, hi8 (s.pc + BitVec.ofNat 16 n))] :=
  State.call_spec (s := s.advance n k) hs t

/-- Settles O42: the three instructions are `call` on the state moved past them. -/
theorem callsPushReturnAddress : Obligations.CallsPushReturnAddress := by
  refine fun s hs => ⟨fun i len cyc target hi => ?_, fun cc nn hcc => ?_⟩
  · have hcall (n k : Nat) (hexec : exec i s = .next ((s.advance n k).call target)) :
        ∃ t, exec i s = .next t ∧
          t = { s with sp := s.sp - 2, pc := target, cycles := s.cycles + k, mem := t.mem, bus := t.bus } ∧
          Stores s t [(s.sp - 2, (s.pc + BitVec.ofNat 16 n).setWidth 8),
            (s.sp - 1, ((s.pc + BitVec.ofNat 16 n) >>> 8).setWidth 8)] := by
      obtain ⟨hframe, hstores⟩ := call_advance_spec hs n k target
      rw [lo8_eq_setWidth, hi8_eq_setWidth] at hstores
      exact ⟨_, hexec, hframe, hstores⟩
    obtain ⟨rfl, rfl, rfl⟩ | ⟨rfl, rfl, rfl⟩ | ⟨cc, rfl, rfl, rfl, hcc⟩ := hi
    · exact hcall 1 4 (exec_rst target s)
    · exact hcall 3 6 (exec_callNN target s)
    · exact hcall 3 6 (by rw [exec_callCcNN, if_pos hcc])
  · rw [exec_callCcNN, hcc]
    rfl

theorem exec_ret (s : State) : exec .ret s = .next (s.advance 1 4).ret := rfl

theorem exec_reti (s : State) : exec .reti s = .next (s.advance 1 4).interruptReturn := rfl

theorem exec_popQq (q : PairQ) (s : State) :
    exec (.popQq q) s = .next ((s.advance 1 3).pop16.2.setPairQ q (s.advance 1 3).pop16.1) := rfl

theorem exec_pushQq (q : PairQ) (s : State) : exec (.pushQq q) s = .next ((s.advance 1 4).push16 (s.pairQ q)) := rfl

/-- A word pushed from `s` and nothing else done to the stack: whatever else `t` differs in, its pop gives the word back and restores
SP and the bus history. -/
theorem pop16_of_pushed {s t : State} {v : Word} (hplatform : t.platform = s.platform) (hsp : t.sp = s.sp - 2)
    (hhi : s.plain (s.sp - 1)) (hlo : s.plain (s.sp - 2)) (h : Stores s t [(s.sp - 2, lo8 v), (s.sp - 1, hi8 v)])
    (n k : Nat) : (t.advance n k).pop16 = (v, { t.advance n k with sp := s.sp }) ∧ t.bus = s.bus := by
  have hsucc : t.sp + 1 = s.sp - 1 := by rw [hsp]; bv_omega
  have htop : t.sp + 2 = s.sp := by rw [hsp]; bv_omega
  rw [← hsp] at hlo
  rw [← hsucc] at hhi
  rw [← hsp, ← hsucc] at h
  have hpop := State.pop16_of_stores (t := t.advance n k) hplatform hlo hhi h
  rwa [State.advance_sp, htop] at hpop

/-- RET after a word has been pushed from `s`: back to that address, all registers and SP as they were. -/
theorem exec_ret_of_pushed {s t : State} {v : Word} (hhi : s.plain (s.sp - 1)) (hlo : s.plain (s.sp - 2))
    (hframe : t = { s with sp := s.sp - 2, pc := t.pc, cycles := t.cycles, mem := t.mem, bus := t.bus })
    (h : Stores s t [(s.sp - 2, lo8 v), (s.sp - 1, hi8 v)]) :
    ∃ u, exec .ret t = .next u ∧ u = { s with pc := v, cycles := t.cycles + 4, mem := u.mem } ∧
      Stores s u [(s.sp - 2, lo8 v), (s.sp - 1, hi8 v)] := by
  have hplatform : t.platform = s.platform := by rw [hframe]
  have hsp : t.sp = s.sp - 2 := by rw [hframe]
  obtain ⟨hpop, hbus⟩ := pop16_of_pushed hplatform hsp hhi hlo h 1 4
  obtain ⟨p, c, m, b, rfl⟩ : ∃ p c m b, t = { s with sp := s.sp - 2, pc := p, cycles := c, mem := m, bus := b } :=
    ⟨_, _, _, _, hframe⟩
  obtain rfl : b = s.bus := hbus
  refine ⟨{ s with pc := v, cycles := c + 4, mem := m }, ?_, rfl, h⟩
  rw [exec_ret, State.ret, hpop]
  rfl

/-- POP of a pair after it has been pushed from `s`. -/
theorem exec_popQq_of_pushed {s t : State} {q : PairQ} (hhi : s.plain (s.sp - 1)) (hlo : s.plain (s.sp - 2))
    (hframe : t = { s with sp := s.sp - 2, pc := t.pc, cycles := t.cycles, mem := t.mem, bus := t.bus })
    (h : Stores s t [(s.sp - 2, lo8 (s.pairQ q)), (s.sp - 1, hi8 (s.pairQ q))]) :
    ∃ u, exec (.popQq q) t = .next u ∧ u = { s with pc := t.pc + 1, cycles := t.cycles + 3, mem := u.mem } ∧
      Stores s u [(s.sp - 2, lo8 (s.pairQ q)), (s.sp - 1, hi8 (s.pairQ q))] := by
  have hplatform : t.platform = s.platform := by rw [hframe]
  have hsp : t.sp = s.sp - 2 := by rw [hframe]
  obtain ⟨hpop, hbus⟩ := pop16_of_pushed hplatform hsp hhi hlo h 1 3
  obtain ⟨p, c, m, b, rfl⟩ : ∃ p c m b, t = { s with sp := s.sp - 2, pc := p, cycles := c, mem := m, bus := b } :=
    ⟨_, _, _, _, hframe⟩
  obtain rfl : b = s.bus := hbus
  refine ⟨{ s with pc := p + 1, cycles := c + 3, mem := m }, ?_, rfl, h⟩
  have hpair : s.pairQ q = State.pairQ { s with pc := p + 1, cycles := c + 3, mem := m } q := by cases q <;> rfl
  rw [exec_popQq, hpop, hpair]
  exact congrArg Host.Outcome.next (State.setPairQ_pairQ_self _ q)

/-- Settles O25: what a pop or a return finds on the stack is what the instruction before it has pushed. -/
theorem stackRoundTrips : Obligations.StackRoundTrips := by
  intro s hs hhi hlo
  simp only [← hi8_eq_setWidth]
  simp only [← lo8_eq_setWidth]
  refine ⟨fun q => ?_, fun nn => ?_, fun a => ?_⟩
  · obtain ⟨hframe, hstores⟩ := push16_advance_spec hs 1 4 (s.pairQ q)
    obtain ⟨u, hpop, hu, hstores'⟩ := exec_popQq_of_pushed hhi hlo hframe hstores
    have hpc : ((s.advance 1 4).push16 (s.pairQ q)).pc + 1 = s.pc + 2 := by
      rw [State.push16_pc, State.advance_pc]
      bv_omega
    rw [hpc] at hu
    exact ⟨_, u, exec_pushQq q s, hpop, hu, hstores'⟩
  · obtain ⟨hframe, hstores⟩ := call_advance_spec hs 3 6 nn
    obtain ⟨u, hret, hu, hstores'⟩ := exec_ret_of_pushed hhi hlo hframe hstores
    exact ⟨_, u, exec_callNN nn s, hret, hu, hstores'⟩
  · obtain ⟨hframe, hstores⟩ := call_advance_spec hs 1 4 a
    obtain ⟨u, hret, hu, hstores'⟩ := exec_ret_of_pushed hhi hlo hframe hstores
    exact ⟨_, u, exec_rst a s, hret, hu, hstores'⟩

end Sys2Proof
end

section
/-! Pops, returns and jumps (`40_load.md`, `45_control_flow.md`): the whole effect of POP, RET, RETI, JP and JR, taken and not
taken. -/

namespace Sys2Proof

open Sys2Proof.Machine

/-! ### The stack read (R58) -/

/-- A pop by an instruction that moves PC first. -/
theorem Machine.State.pop16_advance (s : State) (n k : Nat) :
    (s.advance n k).pop16 = (joinBytes s.stackHi s.stackLo,
      { s with
        sp := s.sp + 2, pc := s.pc + BitVec.ofNat 16 n, cycles := s.cycles + k, bus := s.busAfterPop }) :=
  (s.advance n k).pop16_spec

theorem Machine.State.stackLo_of_plain {s : State} (h : s.plain s.sp) : s.stackLo = s.mem.read s.sp :=
  State.busByte_of_plain h

theorem Machine.State.stackHi_of_plain {s : State} (h : s.plain (s.sp + 1)) : s.stackHi = s.mem.read (s.sp + 1) :=
  State.busByte_of_plain (s := s.afterRead s.sp) h

/-- Settles O23: a pair written with the word on the stack, the high byte in the first register; for AF the flags are bits 7 to 4 of
the low byte. -/
theorem popLoadsPair : Obligations.PopLoadsPair := by
  intro s
  have hexec (q : PairQ) := exec_popQq q s
  simp only [s.pop16_advance] at hexec
  refine ⟨?_, ?_, ?_, ?_, State.stackLo_of_plain, State.stackHi_of_plain⟩
  · rw [hexec]
    exact congrArg Host.Outcome.next (State.setBC_append _ _ _)
  · rw [hexec]
    exact congrArg Host.Outcome.next (State.setDE_append _ _ _)
  · rw [hexec]
    exact congrArg Host.Outcome.next (State.setHL_append _ _ _)
  · rw [hexec, State.setPairQ, State.setAF, hi8_joinBytes, lo8_joinBytes]
    rfl

/-! ### Returns (R239 to R241) -/

theorem Machine.State.ret_advance (s : State) (n k : Nat) :
    (s.advance n k).ret = { s with
      pc := s.stackHi ++ s.stackLo, sp := s.sp + 2, cycles := s.cycles + k, bus := s.busAfterPop } :=
  (s.advance n k).ret_spec

theorem exec_retCc (cc : Cond) (s : State) :
    exec (.retCc cc) s = .next (if s.cond cc then (s.advance 1 5).ret else s.advance 1 2) := by
  rw [exec, execRetCc, State.spend_advance]
  split <;> rfl

/-- Settles O44: all three pop PC; RETI then sets ime, and a condition that is false leaves the stack unread. -/
theorem returnsPopPC : Obligations.ReturnsPopPC := by
  refine fun s => ⟨?_, ?_, fun cc => ?_⟩
  · rw [exec_ret, State.ret_advance]
  · rw [exec_reti, State.interruptReturn_spec]
    rfl
  · rw [exec_retCc, State.ret_advance]
    rfl

/-! ### Jumps (R235 to R238) -/

theorem exec_jpCcNN (cc : Cond) (nn : Word) (s : State) :
    exec (.jpCcNN cc nn) s = .next (if s.cond cc then (s.advance 3 4).jump nn else s.advance 3 3) := by
  rw [exec, execJpCcNN, State.spend_advance]
  split <;> rfl

theorem exec_jrCcE (cc : Cond) (e : Byte) (s : State) :
    exec (.jrCcE cc e) s = .next (if s.cond cc then (s.advance 2 3).jump (s.pc + 2 + sext16 e) else s.advance 2 2) := by
  rw [exec, execJrCcE, State.spend_advance]
  split <;> rfl

/-- Settles O43: a jump is `jump` on the state moved past the instruction, and a condition that is false leaves that state. -/
theorem jumpsSetPC : Obligations.JumpsSetPC := by
  refine fun s => ⟨rfl, fun cc nn => ?_, fun e => rfl, fun cc e => ?_⟩
  · rw [exec_jpCcNN, State.jump_advance]
    rfl
  · rw [exec_jrCcE, State.jump_advance]
    rfl

end Sys2Proof
end

section
/-! The boundary and the step (`60_exceptions.md`): reset, the ways of not executing, interrupt entry and the return from it, the
fetch, and the instructions that write ime and the run state. -/

namespace Sys2Proof

open Sys2Proof.Machine

/-! ### The step, from the boundary before it (R260) -/

theorem step_of_ends {s t : State} (h : s.boundary = .ends t) : step s = .next t := by
  rw [step, h]

theorem step_of_executes {s t : State} (h : s.boundary = .executes t) : step s = exec t.fetch.1 t.fetch.2 := by
  rw [step, h]

/-- An instruction is executed at the boundary (R260 (6)). -/
theorem boundary_of_executesNow {s : State} (h : s.executesNow) : s.boundary = .executes s.boundaryPassed := by
  obtain ⟨hrun, hreset, hnone⟩ := h
  rw [State.boundary_running hreset hrun]
  obtain ⟨i, hpending, hime, -⟩ | ⟨-, hexecutes⟩ := s.boundaryPassed.acceptOrExecute_cases s.boundaryInput.pending
  · obtain hime' | hpending' := hnone
    · exact absurd (hime'.symm.trans hime) Bool.false_ne_true
    · rw [hpending'] at hpending
      cases hpending
  · exact hexecutes

/-- A running CPU takes a pending interrupt that ime allows (R262). -/
theorem boundary_of_running_interrupt {s : State} {k : Nat} (hrun : s.run = .running) (hime : s.ime = true)
    (hreset : s.boundaryInput.reset = false) (hpending : s.boundaryInput.pending = some k) :
    s.boundary = .ends (s.boundaryPassed.interruptEntry k) := by
  rw [State.boundary_running hreset hrun, hpending]
  exact if_pos hime

/-- A halted CPU wakes up and takes it likewise (R268); an entry leaves either one running. -/
theorem boundary_of_interrupt {s : State} {k : Nat} (hrun : s.run = .running ∨ s.run = .halted) (hime : s.ime = true)
    (hinput : s.boundaryInput = ⟨false, some k⟩) :
    s.boundary = .ends (State.interruptEntry { s.boundaryPassed with run := .running } k) := by
  have hreset : s.boundaryInput.reset = false := by rw [hinput]
  have hpending : s.boundaryInput.pending = some k := by rw [hinput]
  obtain hrun | hrun := hrun
  · have hsame : ({ s.boundaryPassed with run := .running } : State) = s.boundaryPassed := by
      rw [← hrun]
      rfl
    rw [hsame]
    exact boundary_of_running_interrupt hrun hime hreset hpending
  · have hime' : s.boundaryPassed.ime = true := hime
    rw [State.boundary_halted hreset hrun, hpending]
    simp only [State.wakeTest, State.acceptOrExecute, hime', Bool.true_or, if_true]

/-! ### Reset and the ways of not executing -/

/-- Settles O3: the boundary ends with the reset event, which reads the platform alone. -/
theorem resetEventStep : Obligations.ResetEventStep :=
  fun _ h => step_of_ends (State.boundary_reset h)

/-- Settles O49: each clause is the boundary of that run state. -/
theorem notExecuting : Obligations.NotExecuting := by
  intro s hreset
  refine ⟨fun hrun => step_of_ends (State.boundary_idle hreset hrun), fun hrun hnone => ?_, fun hrun _ hime hwake => ?_,
    fun hrun hsome hime hwake => ?_⟩
  · refine step_of_ends ?_
    rw [State.boundary_halted hreset hrun, hnone]
    rfl
  · refine step_of_ends ?_
    rw [State.boundary_halted hreset hrun]
    obtain ⟨-, hends⟩ | ⟨-, hwakes, -⟩ := s.boundaryPassed.wakeTest_cases s.boundaryInput.pending
    · exact hends
    · simp [hime, hwake] at hwakes
  · have hboundary : s.boundary = State.boundary { s with run := .running } := by
      rw [State.boundary_halted hreset hrun, State.boundary_running (s := { s with run := .running }) hreset rfl]
      obtain ⟨hstays, -⟩ | ⟨-, -, hgoesOn⟩ := s.boundaryPassed.wakeTest_cases s.boundaryInput.pending
      · simp [hsome, hwake] at hstays
      · exact hgoesOn
    rw [step, step, hboundary]

theorem Machine.State.neverReset_boundaryInput {s : State} (h : s.neverReset) : s.boundaryInput.reset = false := by
  rw [State.boundaryInput]
  split
  · rfl
  · next i _ hinputs => exact h i (hinputs ▸ List.mem_cons_self)

theorem runSteps_succ_of_next {s t : State} (h : step s = .next t) (k : Nat) : runSteps (k + 1) s = runSteps k t := by
  have hcore : Host.Core.step Sys2Proof.core s = .next t := h
  simp only [runSteps, Host.Core.run, hcore]
  rfl

/-- Settles O50, by induction on the number of steps: each only uses up one answer. -/
theorem lockedForGood : Obligations.LockedForGood := by
  intro s k hrun hnever
  induction k generalizing s with
  | zero => rfl
  | succ k ih =>
    have hstep : step s = .next s.boundaryPassed :=
      step_of_ends (State.boundary_idle (State.neverReset_boundaryInput hnever) hrun)
    have hrest := ih s.boundaryPassed hrun fun i hi => hnever i (List.mem_of_mem_tail hi)
    rw [runSteps_succ_of_next hstep, hrest, State.boundaryPassed_inputs, List.drop_tail]
    rfl

/-! ### Interrupt entry and the return from it (R263, R264) -/

/-- Settles O47: the boundary ends with the entry, which pushes PC after the acknowledgement. -/
theorem interruptEntry : Obligations.InterruptEntry := by
  intro s k hs hrun hime hinput
  obtain ⟨hframe, hstores⟩ := State.interruptEntry_spec (s := { s.boundaryPassed with run := .running }) hs k
  rw [lo8_eq_setWidth, hi8_eq_setWidth] at hstores
  exact ⟨_, step_of_ends (boundary_of_interrupt hrun hime hinput), hframe, hstores⟩

/-- RETI after an entry from `s`: the acknowledgement is all that stays of it on the bus. -/
theorem exec_reti_of_entered {s t : State} {k : Nat} {v : Word} (hplatform : t.platform = s.platform)
    (hsp : t.sp = s.sp - 2) (hhi : s.plain (s.sp - 1)) (hlo : s.plain (s.sp - 2))
    (h : Stores { s with bus := .ack k :: s.bus } t [(s.sp - 2, lo8 v), (s.sp - 1, hi8 v)]) :
    exec .reti t = .next { t with
      pc := v, sp := s.sp, ime := true, cycles := t.cycles + 4, bus := .ack k :: s.bus } := by
  obtain ⟨hpop, hbus⟩ := pop16_of_pushed (s := { s with bus := .ack k :: s.bus }) hplatform hsp hhi hlo h 1 4
  have hack : t.bus = .ack k :: s.bus := hbus
  rw [exec_reti, State.interruptReturn, hpop, ← hack]
  rfl

/-- Settles O48: the return pops what the entry has pushed. -/
theorem entryThenReturn : Obligations.EntryThenReturn := by
  intro s k hs hrun hime hinput hhi hlo
  obtain ⟨t, hstep, hframe, hstores⟩ := interruptEntry s k hs hrun hime hinput
  rw [← lo8_eq_setWidth, ← hi8_eq_setWidth] at hstores
  have hreti := exec_reti_of_entered (by rw [hframe]) (by rw [hframe]) hhi hlo hstores
  obtain ⟨m, b, rfl⟩ : ∃ m b, t = { s with
      ime := false, sp := s.sp - 2, pc := intVector s.platform k, run := .running
      cycles := s.cycles + s.platform.intEntryCycles, inputs := s.inputs.tail, mem := m, bus := b } := ⟨_, _, hframe⟩
  refine ⟨_, _, hstep, hreti, by rw [hime], fun x hxhi hxlo => ?_⟩
  obtain ⟨hread, -⟩ := hstores
  rw [hread x]
  simp only [storedByte, hxhi, hxlo, false_and, if_false]

/-! ### DI, EI, HALT, STOP and CCF (R250 to R256) -/

theorem exec_di (s : State) : exec .di s = .next { s with ime := false, pc := s.pc + 1, cycles := s.cycles + 1 } := rfl

theorem exec_ei (s : State) : exec .ei s = .next { s with ime := true, pc := s.pc + 1, cycles := s.cycles + 1 } := rfl

/-- Settles O59. -/
theorem diAndEiComplete : Obligations.DiAndEiComplete :=
  ⟨rfl, rfl, fun s => ⟨exec_di s, exec_ei s⟩⟩

/-- Settles O45: DI leaves an instruction to be executed, EI whatever the pending source asks for. -/
theorem interruptEnable : Obligations.InterruptEnable := by
  refine ⟨fun s => ⟨_, _, exec_di s, exec_ei s, rfl, rfl, fun hrun hreset => ?_⟩,
    fun s hrun hreset hime => boundary_of_executesNow ⟨hrun, hreset, .inl hime⟩⟩
  have hdi := boundary_of_executesNow (s := { s with ime := false, pc := s.pc + 1, cycles := s.cycles + 1 })
    ⟨hrun, hreset, .inl rfl⟩
  refine ⟨hdi, step_of_executes hdi, fun hnone => boundary_of_executesNow ⟨hrun, hreset, .inr hnone⟩, fun k hpending => ?_⟩
  have hei := boundary_of_running_interrupt (s := { s with ime := true, pc := s.pc + 1, cycles := s.cycles + 1 })
    hrun rfl hreset hpending
  exact ⟨hei, _, step_of_ends hei, rfl, rfl⟩

theorem ccfFlags_eq (m : CcfH) (f : Flags) : ccfFlags m f = ⟨f.z, false, f.c && decide (m = .oldCarry), !f.c⟩ := by
  cases m <;> simp [ccfFlags]

theorem exec_stop_untilReset {s : State} (h : s.platform.stopMode = .untilReset) (x : Byte) :
    exec (.stop x) s = .next { s with run := .stopped, pc := s.pc + 2, cycles := s.cycles + 1 } := by
  rw [exec, execStop, h]
  rfl

/-- Settles O46: each parameter chooses one branch of one meaning. -/
theorem haltStopCcf : Obligations.HaltStopCcf := by
  refine fun s => ⟨rfl, fun x h => exec_stop_untilReset h x, fun x h => exec_stop_refused h x, ?_⟩
  rw [← ccfFlags_eq]
  rfl

/-! ### The fetch (R95) -/

/-- Settles O16: `fetch_eq` at each length. -/
theorem fetchReadsExactly : Obligations.FetchReadsExactly := by
  rintro s op n m rfl rfl rfl
  rw [State.fetch_eq]
  dsimp only
  refine ⟨fun hone => if_pos hone, fun htwo => ?_, fun hthree => ?_⟩
  · rw [if_neg (by omega), if_pos htwo]
  · rw [if_neg (by omega), if_neg (by omega)]

/-- Where the bytes of the instruction are plain memory, the fetch is the decoder on memory and changes nothing. -/
theorem fetch_of_plain {s : State} {i : Instr} {rest : List Byte}
    (hplain : ∀ k, k < instrLength (s.mem.read s.pc) → s.plain (s.pc + BitVec.ofNat 16 k))
    (hdecode : decode [s.mem.read s.pc, s.mem.read (s.pc + 1), s.mem.read (s.pc + 2)] = .ok (i, rest)) :
    s.fetch = (i, s) := by
  have hlen := instrLength_cases (s.mem.read s.pc)
  have hfirst : s.plain s.pc := by simpa using hplain 0 (by omega)
  have hop : s.busByte s.pc = s.mem.read s.pc := State.busByte_of_plain hfirst
  rw [State.fetch_eq]
  dsimp only
  rw [hop, State.afterRead_of_plain hfirst]
  simp only [decode] at hdecode
  split_ifs at hdecode ⊢ with hone htwo <;> cases hdecode
  · rfl
  · have hsecond : s.plain (s.pc + 1) := hplain 1 (by omega)
    rw [State.busByte_of_plain hsecond, State.afterRead_of_plain hsecond]
  · have hsecond : s.plain (s.pc + 1) := hplain 1 (by omega)
    have hthird : s.plain (s.pc + 2) := hplain 2 (by omega)
    rw [State.busByte_of_plain hsecond, State.afterRead_of_plain hsecond, State.busByte_of_plain hthird,
      State.afterRead_of_plain hthird]

/-- What three bytes decode to is an instruction of the map, so it is well-formed. -/
theorem wellFormed_of_decode {op n m : Byte} {i : Instr} {rest : List Byte} (h : decode [op, n, m] = .ok (i, rest)) :
    i.wellFormed = true := by
  simp only [decode] at h
  split_ifs at h <;> cases h <;> exact (encodeOfDecode _ _ _).2

/-- Settles O15: the boundary executes, and the fetch is the decoder on memory. -/
theorem stepRunsDecoded : Obligations.StepRunsDecoded := by
  intro s i rest hexecutes hplain hdecode
  refine ⟨wellFormed_of_decode hdecode, ?_⟩
  rw [step_of_executes (boundary_of_executesNow hexecutes), fetch_of_plain (s := s.boundaryPassed) hplain hdecode]
  rfl

end Sys2Proof
end

section
/-! Sanity of the state, the tables and the decoder: the state after reset, the register and pair tables (R21 to R24), F as a byte
(R26), the conditions (R37), and words decoded. -/

namespace Sys2Proof

open Sys2Proof.Machine

/-- Settles O1. -/
theorem resetState : Obligations.ResetState :=
  ⟨fun _ => rfl, rfl, fun _ => rfl⟩

/-- Settles O2. -/
theorem invAtReset : Obligations.InvAtReset :=
  State.inv_afterReset Platform.initial

/-- Settles O14. -/
theorem decodedWords : Obligations.DecodedWords := by
  refine ⟨rfl, rfl, rfl, rfl, rfl, rfl, rfl, rfl, rfl, rfl, rfl, rfl, rfl⟩

/-! ### Registers -/

theorem regOfCode_eq : ∀ c : BitVec 3, regOfCode c =
    if c = 0b110#3 then none else [Reg8.b, .c, .d, .e, .h, .l, .b, .a][c.toNat]? := by
  decide

theorem Machine.State.reg_setReg (s : State) (r q : Reg8) (v : Byte) :
    (s.setReg r v).reg q = if q = r then v else s.reg q := by
  split_ifs with h
  · rw [h, State.reg_setReg_same]
  · exact State.reg_setReg_other s v h

/-- A register written changes no part of the state that is not a register. -/
theorem Machine.State.setReg_frame (s : State) (r : Reg8) (v : Byte) :
    s.setReg r v = { s with
      a := (s.setReg r v).a, b := (s.setReg r v).b, c := (s.setReg r v).c, d := (s.setReg r v).d
      e := (s.setReg r v).e, h := (s.setReg r v).h, l := (s.setReg r v).l } := by
  cases r <;> rfl

/-- Settles O4. -/
theorem registerTable : Obligations.RegisterTable :=
  ⟨regOfCode_eq, regOfCode_code, fun _ => rfl, fun s r q v => ⟨s.reg_setReg r q v, s.setReg_frame r v⟩⟩

/-! ### F as a byte, and the conditions -/

theorem Flags.toByte_ofByte : ∀ v : Byte, (Flags.ofByte v).toByte = v &&& 0xF0#8 := by decide

theorem condOfCode_eq : ∀ c : BitVec 2, some (condOfCode c) = [Cond.nz, .z, .nc, .c][c.toNat]? := by decide

/-- Settles O7. -/
theorem flagWriteAndConditions : Obligations.FlagWriteAndConditions :=
  ⟨Flags.toByte_ofByte, Flags.ofByte_toByte, condOfCode_eq,
    fun s => ⟨iff_of_eq (Bool.not_eq_true' s.f.z), Iff.rfl, iff_of_eq (Bool.not_eq_true' s.f.c), Iff.rfl⟩⟩

/-! ### Pairs -/

theorem pairOfCode_eq : ∀ c : BitVec 2,
    some (pairPOfCode c) = [PairP.bc, .de, .hl, .sp][c.toNat]? ∧ some (pairQOfCode c) = [PairQ.bc, .de, .hl, .af][c.toNat]? := by
  decide

theorem Machine.State.pairP_setPairP_other (s : State) {p p' : PairP} (h : p' ≠ p) (v : Word) :
    (s.setPairP p v).pairP p' = s.pairP p' := by
  cases p with
  | bc =>
    cases p' with
    | bc => exact absurd rfl h
    | _ => rfl
  | de =>
    cases p' with
    | de => exact absurd rfl h
    | _ => rfl
  | hl =>
    cases p' with
    | hl => exact absurd rfl h
    | _ => rfl
  | sp =>
    cases p' with
    | sp => exact absurd rfl h
    | _ => rfl

theorem Machine.State.pairQ_setPairQ_other (s : State) {q q' : PairQ} (h : q' ≠ q) (v : Word) :
    (s.setPairQ q v).pairQ q' = s.pairQ q' := by
  cases q with
  | bc =>
    cases q' with
    | bc => exact absurd rfl h
    | _ => rfl
  | de =>
    cases q' with
    | de => exact absurd rfl h
    | _ => rfl
  | hl =>
    cases q' with
    | hl => exact absurd rfl h
    | _ => rfl
  | af =>
    cases q' with
    | af => exact absurd rfl h
    | _ => rfl

/-- AF read after a write: F has kept the high half of its byte (D23, D41). -/
theorem Machine.State.af_setAF (s : State) (v : Word) : (s.setAF v).af = v &&& 0xFFF0#16 := by
  have hand : (hi8 v ++ lo8 v) &&& (0xFF#8 ++ 0xF0#8) = (hi8 v &&& 0xFF#8) ++ (lo8 v &&& 0xF0#8) := BitVec.and_append
  have hhi : hi8 v &&& 0xFF#8 = hi8 v := BitVec.and_allOnes
  calc (s.setAF v).af = joinBytes (hi8 v) (lo8 v &&& 0xF0#8) := congrArg (joinBytes (hi8 v)) (Flags.toByte_ofByte (lo8 v))
    _ = joinBytes (hi8 v) (lo8 v) &&& 0xFFF0#16 := (hand.trans (congrArg (· ++ _) hhi)).symm
    _ = v &&& 0xFFF0#16 := by rw [joinBytes_hi8_lo8]

theorem getLsbD_lo8 (v : Word) {i : Nat} (hi : i < 8) : (lo8 v).getLsbD i = v.getLsbD i := by
  simp [lo8, hi]

theorem Machine.State.pairQ_setPairQ (s : State) (q : PairQ) (v : Word) :
    (s.setPairQ q v).pairQ q = if q = .af then v &&& 0xFFF0#16 else v := by
  cases q with
  | bc => exact s.bc_setBC v
  | de => exact s.de_setDE v
  | hl => exact s.hl_setHL v
  | af => exact s.af_setAF v

/-- Settles O5: a pair written is its halves written. -/
theorem pairTables : Obligations.PairTables := by
  refine ⟨pairOfCode_eq, fun p => by cases p <;> rfl, fun q => by cases q <;> rfl,
    fun s => ⟨rfl, rfl, rfl, rfl, rfl, rfl, rfl, rfl⟩,
    fun s p v => ⟨s.pairP_setPairP p v, fun p' h => s.pairP_setPairP_other h v⟩,
    fun s q v => ⟨s.pairQ_setPairQ q v, fun q' h => s.pairQ_setPairQ_other h v⟩, fun s v => ?_⟩
  rw [← hi8_eq_setWidth, ← lo8_eq_setWidth, ← getLsbD_lo8 v (i := 7) (by decide), ← getLsbD_lo8 v (i := 6) (by decide),
    ← getLsbD_lo8 v (i := 5) (by decide), ← getLsbD_lo8 v (i := 4) (by decide)]
  exact ⟨rfl, rfl, rfl, rfl, rfl, rfl, rfl, rfl, rfl⟩

end Sys2Proof
end

section
/-! The 8-bit ALU group (`42_alu8.md`): INC and DEC, the sums and differences on A in the notation of the rules, and DAA, whose two
corrections are the decimal carries out of the two digits. -/

namespace Sys2Proof.Machine

/-! ### INC and DEC (R152 to R155) -/

theorem add_one_eq_zero_iff : ∀ v : Byte, v + 1#8 = 0#8 ↔ v = 0xFF#8 := by decide

theorem inc8_eq : inc8 = fun v f =>
    (v + 1, { f with z := decide (v = 0xFF#8), n := false, h := decide (v.toNat % 16 = 15) }) := by
  funext v f
  simp only [inc8, add_one_eq_zero_iff]
  rfl

theorem dec8_eq : dec8 = fun v f =>
    (v - 1, { f with z := decide (v = 0x01#8), n := true, h := decide (v.toNat % 16 = 0) }) := by
  funext v f
  simp only [dec8, ← sub_eq_zero (a := v)]
  rfl

/-! ### Sums and differences (R151) -/

theorem toNat_bit0 (c : Bool) : (bit0 c).toNat = c.toNat := by
  cases c <;> rfl

theorem ite_one_zero_eq_bit0 (c : Bool) : (if c then 1 else 0) = bit0 c := by
  cases c <;> rfl

/-- `Add8` in the notation of the rules, the carry-in a byte. -/
theorem add8_eq (a b : Byte) (c : Bool) : add8 a b c =
    { res := a + b + bit0 c, h := decide (a.toNat % 16 + b.toNat % 16 + (bit0 c).toNat ≥ 16)
      c := decide (a.toNat + b.toNat + (bit0 c).toNat ≥ 256) } := by
  rw [toNat_bit0, ← ite_one_zero_eq_bit0, ← add8_res]
  rfl

/-- `Sub8` in the notation of the rules, the borrow-in a byte. -/
theorem sub8_eq (a b : Byte) (c : Bool) : sub8 a b c =
    { res := a - b - bit0 c, h := decide (a.toNat % 16 < b.toNat % 16 + (bit0 c).toNat)
      c := decide (a.toNat < b.toNat + (bit0 c).toNat) } := by
  rw [toNat_bit0, ← ite_one_zero_eq_bit0, ← sub8_res]
  simp only [sub8, Sum8.mk.injEq, true_and, decide_eq_decide]
  omega

theorem bit0_false : bit0 false = 0#8 := rfl

theorem alu_adc : alu .adc = fun a x f =>
    (a + x + bit0 f.c,
     ⟨decide (a + x + bit0 f.c = 0), false, decide (a.toNat % 16 + x.toNat % 16 + (bit0 f.c).toNat ≥ 16),
      decide (a.toNat + x.toNat + (bit0 f.c).toNat ≥ 256)⟩) := by
  funext a x f
  rw [alu, add8_eq]
  rfl

theorem alu_add : alu .add = fun a x _ =>
    (a + x, ⟨decide (a + x = 0), false, decide (a.toNat % 16 + x.toNat % 16 ≥ 16), decide (a.toNat + x.toNat ≥ 256)⟩) := by
  funext a x f
  rw [alu, add8_eq, bit0_false, BitVec.add_zero]
  rfl

theorem alu_sbc : alu .sbc = fun a x f =>
    (a - x - bit0 f.c,
     ⟨decide (a = x + bit0 f.c), true, decide (a.toNat % 16 < x.toNat % 16 + (bit0 f.c).toNat),
      decide (a.toNat < x.toNat + (bit0 f.c).toNat)⟩) := by
  funext a x f
  simp only [← sub_eq_zero (a := a), ← sub_sub]
  rw [alu, sub8_eq]
  rfl

/-- The flags of a difference without borrow-in, of SUB and of CP. -/
theorem sub8_false_eq (a x : Byte) : sub8 a x false =
    { res := a - x, h := decide (a.toNat % 16 < x.toNat % 16), c := decide (a.toNat < x.toNat) } := by
  rw [sub8_eq, bit0_false, BitVec.sub_zero]
  rfl

theorem alu_sub : alu .sub = fun a x _ =>
    (a - x, ⟨decide (a = x), true, decide (a.toNat % 16 < x.toNat % 16), decide (a.toNat < x.toNat)⟩) := by
  funext a x f
  simp only [← sub_eq_zero (a := a)]
  rw [alu, sub8_false_eq]
  rfl

theorem alu_cp : alu .cp = fun a x _ =>
    (a, ⟨decide (a = x), true, decide (a.toNat % 16 < x.toNat % 16), decide (a.toNat < x.toNat)⟩) := by
  funext a x f
  simp only [← sub_eq_zero (a := a)]
  rw [alu, sub8_false_eq]
  rfl

/-! ### DAA (R180) -/

/-- DAA after an addition, on the number a byte stands for. -/
theorem toNat_daaAdjust_of_add (v : Byte) {f : Flags} (hn : f.n = false) :
    (daaAdjust v f).1.toNat =
      (v.toNat + (if daaLow v f then 6 else 0) + (if daaHigh v f then 96 else 0)) % 256 := by
  cases hlo : daaLow v f <;> cases hhi : daaHigh v f <;>
    simp only [daaAdjust, hn, hlo, hhi, if_true, if_false, Bool.false_eq_true] <;> bv_omega

/-- DAA after a subtraction, on the number a byte stands for. -/
theorem toNat_daaAdjust_of_sub (v : Byte) {f : Flags} (hn : f.n = true) :
    (daaAdjust v f).1.toNat =
      (v.toNat + 256 - (if daaLow v f then 6 else 0) - (if daaHigh v f then 96 else 0)) % 256 := by
  cases hlo : daaLow v f <;> cases hhi : daaHigh v f <;>
    simp only [daaAdjust, hn, hlo, hhi, if_true, if_false, Bool.false_eq_true] <;> bv_omega

theorem daaAdjust_c (v : Byte) (f : Flags) : (daaAdjust v f).2.c = daaHigh v f := rfl

theorem bcdValid_iff (v : Byte) : bcdValid v = true ↔ v.toNat % 16 ≤ 9 ∧ v.toNat / 16 ≤ 9 := by
  simp [bcdValid]

/-- A packed-BCD byte by its two digits. -/
theorem exists_digits {v : Byte} (h : bcdValid v = true) :
    ∃ hi lo, hi ≤ 9 ∧ lo ≤ 9 ∧ v.toNat = 16 * hi + lo ∧ v.toNat % 16 = lo ∧ bcdValue v = 10 * hi + lo := by
  rw [bcdValid_iff] at h
  exact ⟨v.toNat / 16, v.toNat % 16, h.2, h.1, by omega, rfl, by rw [bcdValue]; omega⟩

theorem bcd_of_digits {v : Byte} {hi lo : Nat} (hhi : hi ≤ 9) (hlo : lo ≤ 9) (hv : v.toNat = 16 * hi + lo) :
    bcdValid v = true ∧ bcdValue v = 10 * hi + lo := by
  rw [bcdValid_iff, bcdValue]
  omega

section DecimalSum

variable {a x : Byte} {cin : Bool}

theorem toNat_add8_res : (add8 a x cin).res.toNat = (a.toNat + x.toNat + cin.toNat) % 256 :=
  BitVec.toNat_ofNat ..

/-- After a sum of packed BCD the low digit is corrected exactly where the low digits carry. -/
theorem daaLow_add8 (ha : bcdValid a = true) (hx : bcdValid x = true) :
    daaLow (add8 a x cin).res (flagsOfSum (add8 a x cin) false) =
      decide (a.toNat % 16 + x.toNat % 16 + cin.toNat > 9) := by
  rw [bcdValid_iff] at ha hx
  have hcin := Bool.toNat_le cin
  rw [daaLow, toNat_add8_res, flagsOfSum, add8, Bool.eq_iff_iff]
  simp only [Bool.or_eq_true, decide_eq_true_eq]
  omega

theorem daaHigh_add8 (ha : bcdValid a = true) (hx : bcdValid x = true) :
    daaHigh (add8 a x cin).res (flagsOfSum (add8 a x cin) false) =
      decide (bcdValue a + bcdValue x + cin.toNat > 99) := by
  rw [bcdValid_iff] at ha hx
  have hcin := Bool.toNat_le cin
  rw [daaHigh, toNat_add8_res, flagsOfSum, add8, Bool.eq_iff_iff, bcdValue, bcdValue]
  simp only [Bool.or_eq_true, decide_eq_true_eq]
  omega

/-- DAA after a sum of packed BCD: each correction takes a carry of ten from one digit to the next. -/
theorem daaAdjust_add8 (ha : bcdValid a = true) (hx : bcdValid x = true) :
    bcdValid (daaAdjust (add8 a x cin).res (flagsOfSum (add8 a x cin) false)).1 = true ∧
    bcdValue (daaAdjust (add8 a x cin).res (flagsOfSum (add8 a x cin) false)).1 +
        100 * (daaAdjust (add8 a x cin).res (flagsOfSum (add8 a x cin) false)).2.c.toNat =
      bcdValue a + bcdValue x + cin.toNat := by
  have hcin := Bool.toNat_le cin
  have hres := toNat_daaAdjust_of_add (add8 a x cin).res (f := flagsOfSum (add8 a x cin) false) rfl
  rw [daaLow_add8 ha hx, daaHigh_add8 ha hx, toNat_add8_res] at hres
  rw [daaAdjust_c, daaHigh_add8 ha hx]
  obtain ⟨ah, al, hah, hal, ha, ham, hav⟩ := exists_digits ha
  obtain ⟨xh, xl, hxh, hxl, hx, hxm, hxv⟩ := exists_digits hx
  rw [ham, hxm, hav, hxv, ha, hx] at hres
  rw [hav, hxv]
  have hdigits (hi lo : Nat) (hhi : hi ≤ 9) (hlo : lo ≤ 9) :=
    bcd_of_digits (v := (daaAdjust (add8 a x cin).res (flagsOfSum (add8 a x cin) false)).1) hhi hlo
  by_cases hlow : al + xl + cin.toNat > 9 <;> by_cases hhigh : 10 * ah + al + (10 * xh + xl) + cin.toNat > 99 <;>
    simp only [hlow, hhigh, decide_true, decide_false, if_true, if_false, Bool.false_eq_true, Bool.toNat_true,
      Bool.toNat_false] at hres ⊢
  · obtain ⟨hvalid, hvalue⟩ := hdigits (ah + xh + 1 - 10) (al + xl + cin.toNat - 10) (by omega) (by omega) (by omega)
    exact ⟨hvalid, by omega⟩
  · obtain ⟨hvalid, hvalue⟩ := hdigits (ah + xh + 1) (al + xl + cin.toNat - 10) (by omega) (by omega) (by omega)
    exact ⟨hvalid, by omega⟩
  · obtain ⟨hvalid, hvalue⟩ := hdigits (ah + xh - 10) (al + xl + cin.toNat) (by omega) (by omega) (by omega)
    exact ⟨hvalid, by omega⟩
  · obtain ⟨hvalid, hvalue⟩ := hdigits (ah + xh) (al + xl + cin.toNat) (by omega) (by omega) (by omega)
    exact ⟨hvalid, by omega⟩

theorem toNat_sub8_res : (sub8 a x cin).res.toNat = (a.toNat + 512 - x.toNat - cin.toNat) % 256 := by
  have hcin := Bool.toNat_le cin
  have hexact := sub8_exact a x cin
  have hlt := (sub8 a x cin).res.isLt
  have hc := Bool.toNat_le (sub8 a x cin).c
  have hx := x.isLt
  omega

/-- After a difference of packed BCD the low digit is corrected exactly where the low digits borrow. -/
theorem daaLow_sub8 (ha : bcdValid a = true) (hx : bcdValid x = true) :
    daaLow (sub8 a x cin).res (flagsOfSum (sub8 a x cin) true) = decide (a.toNat % 16 < x.toNat % 16 + cin.toNat) := by
  rw [bcdValid_iff] at ha hx
  have hcin := Bool.toNat_le cin
  rw [daaLow, toNat_sub8_res, flagsOfSum, sub8, Bool.eq_iff_iff]
  simp only [Bool.or_eq_true, decide_eq_true_eq]
  omega

/-- Packed BCD keeps the order of the numbers it stands for. -/
theorem toNat_lt_iff_bcdValue_lt (ha : bcdValid a = true) (hx : bcdValid x = true) :
    a.toNat < x.toNat + cin.toNat ↔ bcdValue a < bcdValue x + cin.toNat := by
  rw [bcdValid_iff] at ha hx
  have hcin := Bool.toNat_le cin
  rw [bcdValue, bcdValue]
  rcases lt_trichotomy (a.toNat / 16) (x.toNat / 16) with hdigit | hdigit | hdigit <;> omega

theorem daaHigh_sub8 (ha : bcdValid a = true) (hx : bcdValid x = true) :
    daaHigh (sub8 a x cin).res (flagsOfSum (sub8 a x cin) true) = decide (bcdValue a < bcdValue x + cin.toNat) := by
  have horder := toNat_lt_iff_bcdValue_lt (cin := cin) ha hx
  rw [bcdValid_iff] at ha hx
  rw [daaHigh, toNat_sub8_res, flagsOfSum, sub8, Bool.eq_iff_iff]
  simp only [Bool.or_eq_true, decide_eq_true_eq, ← horder]
  omega

/-- DAA after a difference of packed BCD: each correction takes a borrow of ten from one digit to the next. -/
theorem daaAdjust_sub8 (ha : bcdValid a = true) (hx : bcdValid x = true) :
    bcdValid (daaAdjust (sub8 a x cin).res (flagsOfSum (sub8 a x cin) true)).1 = true ∧
    bcdValue (daaAdjust (sub8 a x cin).res (flagsOfSum (sub8 a x cin) true)).1 + bcdValue x + cin.toNat =
      bcdValue a + 100 * (daaAdjust (sub8 a x cin).res (flagsOfSum (sub8 a x cin) true)).2.c.toNat := by
  have hcin := Bool.toNat_le cin
  have hres := toNat_daaAdjust_of_sub (sub8 a x cin).res (f := flagsOfSum (sub8 a x cin) true) rfl
  rw [daaLow_sub8 ha hx, daaHigh_sub8 ha hx, toNat_sub8_res] at hres
  rw [daaAdjust_c, daaHigh_sub8 ha hx]
  obtain ⟨ah, al, hah, hal, ha, ham, hav⟩ := exists_digits ha
  obtain ⟨xh, xl, hxh, hxl, hx, hxm, hxv⟩ := exists_digits hx
  rw [ham, hxm, hav, hxv, ha, hx] at hres
  rw [hav, hxv]
  have hdigits (hi lo : Nat) (hhi : hi ≤ 9) (hlo : lo ≤ 9) :=
    bcd_of_digits (v := (daaAdjust (sub8 a x cin).res (flagsOfSum (sub8 a x cin) true)).1) hhi hlo
  by_cases hlow : al < xl + cin.toNat <;> by_cases hhigh : 10 * ah + al < 10 * xh + xl + cin.toNat <;>
    simp only [hlow, hhigh, decide_true, decide_false, if_true, if_false, Bool.false_eq_true, Bool.toNat_true,
      Bool.toNat_false] at hres ⊢
  · obtain ⟨hvalid, hvalue⟩ := hdigits (ah + 9 - xh) (al + 10 - xl - cin.toNat) (by omega) (by omega) (by omega)
    exact ⟨hvalid, by omega⟩
  · obtain ⟨hvalid, hvalue⟩ := hdigits (ah - xh - 1) (al + 10 - xl - cin.toNat) (by omega) (by omega) (by omega)
    exact ⟨hvalid, by omega⟩
  · obtain ⟨hvalid, hvalue⟩ := hdigits (ah + 10 - xh) (al - xl - cin.toNat) (by omega) (by omega) (by omega)
    exact ⟨hvalid, by omega⟩
  · obtain ⟨hvalid, hvalue⟩ := hdigits (ah - xh) (al - xl - cin.toNat) (by omega) (by omega) (by omega)
    exact ⟨hvalid, by omega⟩

end DecimalSum

theorem exec_daa (s : State) : exec .daa s = .next ((s.advance 1 1).modifyA daaAdjust) := rfl

/-- The law of `ThenDaa` for an operation that leaves `v` in A and `f` in F. -/
theorem thenDaa_of_daaAdjust {P : Byte → Byte → Bool → Byte → Bool → Prop} {s t : State} {x v : Byte} {f : Flags}
    (hv : t.a = v) (hf : t.f = f)
    (hP : bcdValid s.a = true → bcdValid x = true →
      bcdValid (daaAdjust v f).1 = true ∧ P s.a x s.f.c (daaAdjust v f).1 (daaAdjust v f).2.c) : ThenDaa P s x t := by
  intro ha hx
  subst hv hf
  exact ⟨_, exec_daa t, hP ha hx⟩

end Sys2Proof.Machine

namespace Sys2Proof

open Sys2Proof.Machine

/-! ### The obligations -/

/-- Settles O28. -/
theorem incDecBytes : Obligations.IncDecBytes := by
  rw [Obligations.IncDecBytes, ← inc8_eq, ← dec8_eq]
  exact ⟨inPlaceForms_of_exec (fun _ _ => rfl) fun _ => rfl, inPlaceForms_of_exec (fun _ _ => rfl) fun _ => rfl⟩

/-- Settles O29. -/
theorem addAndAdc : Obligations.AddAndAdc := by
  rw [Obligations.AddAndAdc, ← alu_add, ← alu_adc]
  exact ⟨aluForms_add, aluForms_adc⟩

/-- Settles O30. -/
theorem subSbcAndCp : Obligations.SubSbcAndCp := by
  rw [Obligations.SubSbcAndCp, ← alu_sub, ← alu_sbc, ← alu_cp]
  exact ⟨aluForms_sub, aluForms_sbc, aluForms_cp⟩

/-- Settles O33: the two corrections one after the other are `daaAdjust`'s one. -/
theorem decimalAdjust : Obligations.DecimalAdjust := by
  intro s lo hi t hlo hhi ht
  have hlow : daaLow s.a s.f = lo := by
    rw [Bool.eq_iff_iff, hlo, daaLow, Bool.or_eq_true, decide_eq_true_eq]
  have hhigh : daaHigh s.a s.f = hi := by
    rw [Bool.eq_iff_iff, hhi, daaHigh, Bool.or_eq_true, decide_eq_true_eq]
  have hres : (daaAdjust s.a s.f).1 = t := by
    rw [ht, daaAdjust, hlow, hhigh, sub_sub, add_assoc]
    rfl
  rw [exec_daa, State.modifyA_spec]
  subst hres hhigh
  rfl

/-- Settles O34: A and F after each operation are those of one sum or difference. -/
theorem decimalAdjustIsDecimal : Obligations.DecimalAdjustIsDecimal := by
  refine ⟨aluForms_add.law fun s x t ha hf => thenDaa_of_daaAdjust ha hf daaAdjust_add8,
    aluForms_adc.law fun s x t ha hf => thenDaa_of_daaAdjust ha hf daaAdjust_add8,
    aluForms_sub.law fun s x t ha hf => thenDaa_of_daaAdjust ha hf daaAdjust_sub8,
    aluForms_sbc.law fun s x t ha hf => thenDaa_of_daaAdjust ha hf daaAdjust_sub8⟩

end Sys2Proof
end

section
/-! Nine fast rotates through the carry (`43_rot.md`, R193): C and A form a ring of nine bits. -/

namespace Sys2Proof.Machine

/-- What a fast rotate does to A and C. -/
def rotatePair (o : RotOp) (p : Byte × Bool) : Byte × Bool := rotate o p.1 p.2

/-- C before the bits of A, as the ring that RL turns by one. -/
def carryRing (p : Byte × Bool) : BitVec 9 := BitVec.ofBool p.2 ++ p.1

theorem getLsbD_carryRing (p : Byte × Bool) (k : Nat) :
    (carryRing p).getLsbD k = if k < 8 then p.1.getLsbD k else (decide (k = 8) && p.2) := by
  rw [carryRing, BitVec.getLsbD_append]
  by_cases hk : k < 8
  · simp [hk]
  · simp [hk, BitVec.getLsbD_ofBool, show k - 8 = 0 ↔ k = 8 by omega]

theorem carryRing_injective : Function.Injective carryRing := by
  intro p q h
  have hbits (k : Nat) := congrArg (BitVec.getLsbD · k) h
  simp only [getLsbD_carryRing] at hbits
  refine Prod.ext (BitVec.eq_of_getLsbD_eq fun k hk => ?_) ?_
  · simpa [hk] using hbits k
  · simpa using hbits 8

theorem carryRing_rotatePair_rl (p : Byte × Bool) : carryRing (rotatePair .rl p) = (carryRing p).rotateLeft 1 := by
  obtain ⟨v, c⟩ := p
  revert v c
  decide

theorem rotateLeft_iterate_nine (w : BitVec 9) : (fun x : BitVec 9 => x.rotateLeft 1)^[9] w = w := by
  ext i hi
  interval_cases i <;> simp [BitVec.getElem_rotateLeft]

/-- Nine turns of the ring are a full one. -/
theorem rotatePair_rl_iterate_nine (p : Byte × Bool) : (rotatePair .rl)^[9] p = p := by
  have hturns : Function.Semiconj carryRing (rotatePair .rl) (fun x => x.rotateLeft 1) := carryRing_rotatePair_rl
  apply carryRing_injective
  rw [(hturns.iterate_right 9).eq, rotateLeft_iterate_nine]

/-- RR turns the ring back. -/
theorem rotatePair_rr_rl : Function.LeftInverse (rotatePair .rr) (rotatePair .rl) := by
  rintro ⟨v, c⟩
  revert v c
  decide

theorem rotatePair_rr_iterate_nine (p : Byte × Bool) : (rotatePair .rr)^[9] p = p := by
  have hback := rotatePair_rr_rl.iterate 9 p
  rwa [rotatePair_rl_iterate_nine] at hback

/-- A fast rotate executed several times in a row. -/
theorem execTimes_of_fastRotate {i : Instr} {o : RotOp}
    (hexec : ∀ s, exec i s = .next ((s.advance 1 1).modifyA (rotFast o))) (k : Nat) (s : State) :
    execTimes (k + 1) i s = .next { s with
      a := ((rotatePair o)^[k + 1] (s.a, s.f.c)).1
      f := ⟨false, false, false, ((rotatePair o)^[k + 1] (s.a, s.f.c)).2⟩
      pc := s.pc + BitVec.ofNat 16 (k + 1), cycles := s.cycles + (k + 1) } := by
  induction k generalizing s with
  | zero => rw [execTimes, exec_of_fastRotate hexec rfl]; rfl
  | succ k ih =>
    have hpc : s.pc + 1 + BitVec.ofNat 16 (k + 1) = s.pc + BitVec.ofNat 16 (k + 1 + 1) := by bv_omega
    have hcycles : s.cycles + 1 + (k + 1) = s.cycles + (k + 1 + 1) := by omega
    have hfirst : rotate o s.a s.f.c = ((rotatePair o (s.a, s.f.c)).1, (rotatePair o (s.a, s.f.c)).2) := rfl
    rw [execTimes, exec_of_fastRotate hexec hfirst, Function.iterate_succ_apply _ (k + 1), ← hpc, ← hcycles]
    exact ih _

/-- A fast rotate that nine times over gives A and C back. -/
theorem execTimes_nine_of_fastRotate {i : Instr} {o : RotOp}
    (hexec : ∀ s, exec i s = .next ((s.advance 1 1).modifyA (rotFast o)))
    (hfull : ∀ p, (rotatePair o)^[9] p = p) (s : State) :
    execTimes 9 i s =
      .next { s with f := ⟨false, false, false, s.f.c⟩, pc := s.pc + 9, cycles := s.cycles + 9 } := by
  rw [execTimes_of_fastRotate hexec 8, hfull]
  rfl

end Sys2Proof.Machine

namespace Sys2Proof

open Sys2Proof.Machine

/-- Settles O38: RLA turns the ring of C and A by one place, RRA turns it back. -/
theorem nineRotatesRestore : Obligations.NineRotatesRestore := fun s =>
  ⟨execTimes_nine_of_fastRotate (fun _ => rfl) rotatePair_rl_iterate_nine s,
    execTimes_nine_of_fastRotate (fun _ => rfl) rotatePair_rr_iterate_nine s⟩

end Sys2Proof
end
